-- ==== Sys2Proof/Word.lean ====
section
/-! DEFINITION. The two word types of the block (00_scope.md R9): 8-bit bytes and 32-bit host words. -/

namespace Sys2Proof

/-- A byte of the stream, of the plane or of the literal buffer (20_memory.md R60). -/
abbrev Byte := BitVec 8

/-- A 32-bit word of the host bus and of the host registers (10_state.md R22). -/
abbrev Word := BitVec 32

end Sys2Proof
end

