-- ==== Sys2Proof/Config.lean ====
section
/-! DEFINITION. What one implementation of the block fixes, and the values the spec leaves unspecified.
None of these constants has a body: nothing in Lean can evaluate one or prove a value of it. -/

namespace Sys2Proof

/-- PLANE_CAPACITY - 1. The parameter lies between 1 and 2^32 - 2^16 (00_scope.md R8), so this number lies
below 2^32 - 2^16 = 4294901760. OPEN in the spec (decision D6); log 1. -/
opaque Config.planeCapacityLast : Fin 4294901760

/-- PLANE_CAPACITY, the size of the plane memory in bytes (00_scope.md R8), as the CAPACITY register
reads it (10_state.md R40). -/
def Config.planeCapacity : Word := BitVec.ofNat 32 (Config.planeCapacityLast.val + 1)

/-- DESIGN CHOICE (log 2, safe). The value a plane byte holds after reset until something writes it: one free
draw for each byte (10_state.md R47), fixed until written. `draw` says which reset it was. -/
opaque Config.freePlaneByte (draw k : Nat) : Byte

/-- DESIGN CHOICE (log 4, safe). The value a byte of LIT_BUF holds after reset (10_state.md R43, R47). -/
opaque Config.freeLitByte (draw k : Nat) : Byte

/-- DESIGN CHOICE (log 3, safe). The value an engine datapath register of `w` bits holds after reset
(10_state.md R42, R47). `reg` numbers the registers in the order of R42's table. -/
opaque Config.freeScratch (draw reg w : Nat) : BitVec w

/-- DESIGN CHOICE (log 25, safe). Byte `pos` of the endless stream number `stream`: any sequence of bytes whatever
(20_memory.md R66: a source may offer an unbounded sequence). -/
opaque Config.freeStreamByte (stream pos : Nat) : Byte

end Sys2Proof
end

