-- ==== Sys2Proof/Syntax.lean ====
section
/-! DEFINITION. The instruction set: the five records of the compressed stream (30_encoding.md R82) and the
sixteen command codes of CTRL[3:0] (R90). One constructor per row of spec/opcode_table.json. -/

namespace Sys2Proof

/-- An instruction of the block (00_scope.md R2: records of the stream and host commands). -/
inductive Instr where
  /-- ENCODED_RUN `(a, b)`, a != 0: `a` pixels of the pattern byte `b` (42_rle_decoder.md R150). -/
  | encodedRun (a b : Byte)
  /-- EOL `(0, 0)`: end of line (R152). -/
  | eol
  /-- EOB `(0, 1)`: end of bitmap (R153). -/
  | eob
  /-- DELTA `(0, 2, dx, dy)`: move the cursor (R154). -/
  | delta (dx dy : Byte)
  /-- ABSOLUTE `(0, b, literal bytes)`, b >= 3: `b` literal pixels (R170). -/
  | absolute (b : Byte) (literal : List Byte)
  /-- CMD 0 (40_commands.md R103). -/
  | nop
  /-- CMD 1 (R104). -/
  | clear
  /-- CMD 2 (42_rle_decoder.md R140). -/
  | decode
  /-- CMD 3 (41_packing.md R125). -/
  | getIndex
  /-- CMD 4 (R126). -/
  | setIndex
  /-- CMD 5 to 15: reserved codes (40_commands.md R105). -/
  | reserved5
  | reserved6
  | reserved7
  | reserved8
  | reserved9
  | reserved10
  | reserved11
  | reserved12
  | reserved13
  | reserved14
  | reserved15
  deriving DecidableEq, Repr

end Sys2Proof
end

