-- ==== Sys2Proof/Machine/State.lean ====
section
/-! DEFINITION. The state of the block (10_state.md section 7), the reset state, and the reasons a step can stop. -/

namespace Sys2Proof.Machine

/-- The engine state (10_state.md R29). The codes 9 to 15 are never produced and have no constructor
(93_implementation_defined.md). -/
inductive EngineState where
  | idle
  | exec
  | hdrA
  | hdrB
  | run
  | deltaX
  | deltaY
  | absRead
  | absEmit
  deriving DecidableEq, Repr

/-- The error codes (60_exceptions.md R200). The codes 5 to 15 are never produced and have no constructor. -/
inductive ErrCode where
  /-- Code 0: no error. -/
  | noError
  /-- Code 1. -/
  | validation
  /-- Code 2. -/
  | truncation
  /-- Code 3. -/
  | bounds
  /-- Code 4. -/
  | illegalCommand
  deriving DecidableEq, Repr

/-- STATUS (10_state.md R24). -/
structure Status where
  busy : Bool
  done : Bool
  error : Bool
  ign : Bool
  errCode : ErrCode
  state : EngineState
  deriving DecidableEq, Repr

/-- The registers the host writes: CONFIG.DEPTH, CONFIG.MODE, WIDTH, HEIGHT, PIX_X, PIX_Y, PIX_DATA
(10_state.md R30 to R34). -/
structure HostRegs where
  depth : BitVec 5
  mode : BitVec 2
  width : Word
  height : Word
  pixX : Word
  pixY : Word
  pixData : Byte
  deriving DecidableEq, Repr

/-- The decoder's cursor and counters, which only DECODE changes (10_state.md R35 to R38). `curY` is a
two's-complement value. -/
structure Counters where
  curX : Word
  curY : Word
  bytesConsumed : Word
  pixelsWritten : Word
  deriving DecidableEq, Repr

/-- The engine's datapath registers S.CMD, S.A, S.B, S.LEFT, S.I, S.COUNT, S.NEED, S.FILL, S.DX
(10_state.md R42). -/
structure Scratch where
  cmd : BitVec 4
  a : Byte
  b : Byte
  left : BitVec 8
  i : BitVec 8
  count : BitVec 8
  need : BitVec 9
  fill : BitVec 9
  dx : BitVec 8
  deriving DecidableEq, Repr

/-- What the source offers after the bytes it lists (20_memory.md R66). -/
inductive SourceRest where
  /-- Neither a byte nor EOF, until an event offers one. -/
  | nothing
  /-- EOF, at every later read. -/
  | eof
  /-- The bytes `b`, `bs` over and over: a stream that never ends (42_rle_decoder.md R181's example; log 25). -/
  | cycle (b : Byte) (bs : List Byte)
  /-- The bytes of the free stream number `stream` from `pos` on: an arbitrary stream that never ends (log 25). -/
  | free (stream pos : Nat)
  deriving DecidableEq, Repr

/-- What the source offers at the port: the bytes not yet read, first first, and what follows them (20_memory.md
R66). -/
structure Source where
  bytes : List Byte
  rest : SourceRest
  deriving DecidableEq, Repr

/-- Byte memory: (address, byte) pairs with strictly rising addresses. An address that is not listed holds the
value it had after reset, which is no number of the model's (log 2). -/
abbrev Memory := List Host.Cell

/-- One atomic step of an agent outside the engine, or a turn of the engine (10_state.md R20, 20_memory.md R65,
R69). The list of events in State says which agent moves next (log 6). -/
inductive Event where
  /-- `WR`: the host writes a word (30_encoding.md R92). -/
  | hostWrite (addr data : Word)
  /-- `RD`: the host reads a word. -/
  | hostRead (addr : Word)
  /-- `WAIT`: the host reads STATUS until BUSY = 0; the engine runs meanwhile. -/
  | wait
  /-- The engine takes one step (42_rle_decoder.md R143). -/
  | engine
  /-- The source offers one more byte (20_memory.md R66). -/
  | sourceByte (b : Byte)
  /-- The source offers EOF after the bytes it offers. -/
  | sourceEof
  /-- The source offers `b`, `bs` over and over after the bytes it offers (42_rle_decoder.md R181; log 25). -/
  | sourceCycle (b : Byte) (bs : List Byte)
  /-- The source offers the endless free stream number `stream` after the bytes it offers (log 25). -/
  | sourceFree (stream : Nat)
  /-- The source withdraws what it still offers and begins a new stream (R68: outside the block). -/
  | sourceStart
  /-- The reset input is asserted (70_reset_and_hazards.md R230). -/
  | reset
  deriving DecidableEq, Repr

/-- The state of the block and of what surrounds it. -/
structure State where
  /-- CAPACITY = PLANE_CAPACITY (10_state.md R40). No step changes it. -/
  capacity : Word
  regs : HostRegs
  status : Status
  counters : Counters
  /-- PLANE_LEN (10_state.md R39). -/
  planeLen : Word
  scratch : Scratch
  /-- LIT_BUF (10_state.md R43). -/
  litBuf : Memory
  /-- The plane memory (10_state.md R44). -/
  plane : Memory
  source : Source
  /-- The model's own (log 6): the events still to happen, first first. -/
  inputs : List Event
  /-- The model's own (log 9): the word the host bus returned on the last host read. -/
  readData : Word
  /-- The model's own (log 5): which draw of the unspecified values the block holds. -/
  draw : Nat
  deriving DecidableEq, Repr

/-- Why the machine stops. The block's own errors (ValidationError and so on) are no stops: they are next
states with STATUS.ERROR set (60_exceptions.md R204). -/
inductive Fault where
  /-- The engine is IDLE, and no event is left: no agent has a step until the host writes a command
  (70_reset_and_hazards.md R232). Raised by the engine's turn. Safe: the model stops where the block waits. -/
  | awaitingHost
  /-- The engine reads the source, which offers neither a byte nor EOF: the engine has no step
  (20_memory.md R66). Raised by every reading step. Safe: the model stops where the block waits. -/
  | awaitingSource
  /-- The engine accesses a plane byte `k` at or above PLANE_CAPACITY, which does not exist (20_memory.md R60).
  Raised by pixel accesses, only in states that no run reaches. Safe. -/
  | planeAddress (k : Nat)
  /-- The engine writes a byte `k` of LIT_BUF above 255, which does not exist (20_memory.md R60). Raised by
  ABS_READ, only in states that no run reaches. Safe. -/
  | litBufIndex (k : Nat)
  /-- The engine is in EXEC with S.CMD = 0, which "never occurs in EXEC" (40_commands.md R106). Raised by the
  EXEC step, only in states that no run reaches. Safe. -/
  | noCommand
  deriving DecidableEq, Repr

/-- Why an instruction has no meaning in the model. -/
inductive Refusal where
  /-- The instruction is not modelled yet. Raised by an arm of `exec`, and by none now. Safe. -/
  | notModelled (mnemonic : String)
  deriving DecidableEq, Repr

/-- The outcome of a step, a meaning or an operation. -/
abbrev Result := Host.Outcome State Fault Refusal

namespace State

/-- `s` with other host registers. -/
def setRegs (s : State) (v : HostRegs) : State := { s with regs := v }
/-- `s` with another STATUS. -/
def setStatus (s : State) (v : Status) : State := { s with status := v }
/-- `s` with another cursor and other counters. -/
def setCounters (s : State) (v : Counters) : State := { s with counters := v }
/-- `s` with another PLANE_LEN. -/
def setPlaneLen (s : State) (v : Word) : State := { s with planeLen := v }
/-- `s` with other datapath registers. -/
def setScratch (s : State) (v : Scratch) : State := { s with scratch := v }
/-- `s` with another LIT_BUF. -/
def setLitBuf (s : State) (v : Memory) : State := { s with litBuf := v }
/-- `s` with another plane. -/
def setPlane (s : State) (v : Memory) : State := { s with plane := v }
/-- `s` with another offer of the source. -/
def setSource (s : State) (v : Source) : State := { s with source := v }
/-- `s` with another list of events. -/
def setInputs (s : State) (v : List Event) : State := { s with inputs := v }
/-- `s` with another word on the host's read bus. -/
def setReadData (s : State) (v : Word) : State := { s with readData := v }

end State

/-- The datapath registers after the reset number `draw`: free draws (10_state.md R42, R47; log 3). -/
def Scratch.afterReset (draw : Nat) : Scratch where
  cmd := Config.freeScratch draw 0 4
  a := Config.freeScratch draw 1 8
  b := Config.freeScratch draw 2 8
  left := Config.freeScratch draw 3 8
  i := Config.freeScratch draw 4 8
  count := Config.freeScratch draw 5 8
  need := Config.freeScratch draw 6 9
  fill := Config.freeScratch draw 7 9
  dx := Config.freeScratch draw 8 8

/-- The host registers after reset: all 0 (10_state.md R47). -/
def HostRegs.afterReset : HostRegs where
  depth := 0
  mode := 0
  width := 0
  height := 0
  pixX := 0
  pixY := 0
  pixData := 0

/-- STATUS after reset: 0 (10_state.md R47). -/
def Status.afterReset : Status where
  busy := false
  done := false
  error := false
  ign := false
  errCode := .noError
  state := .idle

/-- The cursor and the counters after reset: 0 (10_state.md R47). -/
def Counters.afterReset : Counters where
  curX := 0
  curY := 0
  bytesConsumed := 0
  pixelsWritten := 0

/-- The state right after reset of a block with the given PLANE_CAPACITY (10_state.md R47). -/
def State.resetWith (capacity : Word) : State where
  capacity := capacity
  regs := HostRegs.afterReset
  status := Status.afterReset
  counters := Counters.afterReset
  planeLen := 0
  scratch := Scratch.afterReset 0
  litBuf := []
  plane := []
  source := { bytes := [], rest := .nothing }
  inputs := []
  readData := 0
  draw := 0

/-- The machine right after reset (10_state.md R47). PLANE_CAPACITY is the open parameter of Config (log 1). -/
def State.reset : State := State.resetWith Config.planeCapacity

end Sys2Proof.Machine
end

