-- ==== Sys2Proof/Machine/Flags.lean ====
section
/-! DEFINITION. STATUS and the other packed registers: how their fields change and how the host reads them. The
block has no flags apart from STATUS (10_state.md R45). -/

namespace Sys2Proof.Machine

/-- STATUS.STATE's code (10_state.md R29). -/
def EngineState.code : EngineState → BitVec 4
  | .idle => 0
  | .exec => 1
  | .hdrA => 2
  | .hdrB => 3
  | .run => 4
  | .deltaX => 5
  | .deltaY => 6
  | .absRead => 7
  | .absEmit => 8

/-- STATUS.ERR_CODE's code (60_exceptions.md R200). -/
def ErrCode.code : ErrCode → BitVec 4
  | .noError => 0
  | .validation => 1
  | .truncation => 2
  | .bounds => 3
  | .illegalCommand => 4

/-- STATUS as the host reads it: BUSY [0], DONE [1], ERROR [2], IGN [3], ERR_CODE [7:4], STATE [11:8], bits
[31:12] read 0 (10_state.md R24). -/
def Status.word (st : Status) : Word :=
  (0#20 ++ st.state.code ++ st.errCode.code ++ BitVec.ofBool st.ign ++ BitVec.ofBool st.error ++
    BitVec.ofBool st.done ++ BitVec.ofBool st.busy : BitVec (20 + 4 + 4 + 1 + 1 + 1 + 1))

/-- CONFIG as the host reads it: DEPTH [4:0], MODE [9:8], the other bits read 0 (10_state.md R30). -/
def HostRegs.configWord (r : HostRegs) : Word :=
  (0#22 ++ r.mode ++ 0#3 ++ r.depth : BitVec (22 + 2 + 3 + 5))

/-- CONFIG's fields from a word the host writes; the other bits are ignored (10_state.md R30). -/
def HostRegs.withConfig (r : HostRegs) (word : Word) : HostRegs :=
  { r with depth := word.extractLsb' 0 5, mode := word.extractLsb' 8 2 }

/-- STATUS when a command is accepted (40_commands.md R100). -/
def Status.accepted (st : Status) : Status :=
  { st with busy := true, done := false, error := false, errCode := .noError, ign := false, state := .exec }

/-- STATUS when a command ends without error (40_commands.md R102). -/
def Status.finished (st : Status) : Status :=
  { st with busy := false, done := true, state := .idle }

/-- STATUS when a command ends by `raise e` (60_exceptions.md R204); DONE and IGN keep their values. -/
def Status.raised (e : ErrCode) (st : Status) : Status :=
  { st with busy := false, error := true, errCode := e, state := .idle }

/-- STATUS when a host write is ignored because BUSY = 1 (10_state.md R28). -/
def Status.ignored (st : Status) : Status := { st with ign := true }

/-- STATUS with another engine state. -/
def Status.goTo (x : EngineState) (st : Status) : Status := { st with state := x }

/-- Whether the engine asserts `s_ready` (20_memory.md R67): only in the states that read a byte. -/
def State.sReady (s : State) : Bool :=
  match s.status.state with
  | .hdrA => true
  | .hdrB => true
  | .deltaX => true
  | .deltaY => true
  | .absRead => true
  | .idle => false
  | .exec => false
  | .run => false
  | .absEmit => false

end Sys2Proof.Machine
end

