-- ==== Sys2Proof/Machine/Lengths.lean ====
section
/-! DEFINITION. Quantities derived from the colour depth: pixels per byte, and the length of an absolute run's
literal bytes. -/

namespace Sys2Proof

/-- `ceil(p / q) = (p + q - 1) div q` (00_scope.md R11). -/
def ceilDiv (p q : Nat) : Nat := (p + q - 1) / q

/-- `ppb = 8 / depth`, the pixels in one byte (00_scope.md R10). -/
def pixelsPerByte (depth : Nat) : Nat := 8 / depth

/-- `size_from_width(b)`: the bytes that hold `b` packed pixels (30_encoding.md R85, 90_conflicts.md C3). -/
def sizeFromWidth (b depth : Nat) : Nat := ceilDiv (b * depth) 8

/-- `N(b, depth)`: the literal bytes of an ABSOLUTE record, padded to an even count (30_encoding.md R85). -/
def paddedLength (b depth : Nat) : Nat := 2 * ceilDiv (sizeFromWidth b depth) 2

end Sys2Proof
end

