-- ==== Sys2Proof/Machine/Operands.lean ====
section
/-! DEFINITION. Operand computations: the packing unit, the pixel address, the configuration check and the
cursor moves. -/

namespace Sys2Proof.Machine

/-- `mask = (1 << depth) - 1` on a byte (00_scope.md R10, 41_packing.md R120). -/
def indexMask (depth : Nat) : Byte := BitVec.ofNat 8 (2 ^ depth - 1)

/-- `shift = 8 - depth * (slot + 1)` (41_packing.md R120). -/
def slotShift (slot depth : Nat) : Nat := 8 - depth * (slot + 1)

/-- `Extract(byte, s, d)`: the index in slot `s` of a byte, zero-extended to a byte (41_packing.md R120). -/
def extractIndex (byte : Byte) (slot depth : Nat) : Byte :=
  (byte >>> slotShift slot depth) &&& indexMask depth

/-- `Insert(byte, s, d, v)`: the byte with slot `s` replaced by the low `d` bits of `v` (41_packing.md R121). -/
def insertIndex (byte : Byte) (slot depth : Nat) (v : Byte) : Byte :=
  (byte &&& ~~~(indexMask depth <<< slotShift slot depth)) ||| ((v &&& indexMask depth) <<< slotShift slot depth)

/-- The linear number `p = y*W + x` of a pixel, exact (00_scope.md R13, 41_packing.md R122). -/
def pixelNumber (width x y : Nat) : Nat := y * width + x

/-- The plane byte that holds pixel `(x, y)` (41_packing.md R122). -/
def pixelByte (depth width x y : Nat) : Nat := pixelNumber width x y / pixelsPerByte depth

/-- The slot of pixel `(x, y)` in its byte (41_packing.md R122). -/
def pixelSlot (depth width x y : Nat) : Nat := pixelNumber width x y % pixelsPerByte depth

/-- CONFIG.DEPTH as a number. -/
def State.depth (s : State) : Nat := s.regs.depth.toNat

/-- W. -/
def State.imageWidth (s : State) : Nat := s.regs.width.toNat

/-- H. -/
def State.imageHeight (s : State) : Nat := s.regs.height.toNat

/-- The reasons of 40_commands.md R101, for reading only: every one reports ValidationError. -/
inductive ConfigProblem where
  | badDepth
  | badMode
  | badPairing
  | badWidth
  | badHeight
  | tooLarge
  deriving DecidableEq, Repr

/-- The outcome of the configuration check: the plane's length in bytes, or the first check that fails. -/
inductive ConfigCheck where
  | legal (len : Nat)
  | illegal (p : ConfigProblem)
  deriving DecidableEq, Repr

/-- `PLANE_LEN = ceil(W * H / ppb)`, exact (00_scope.md R10). -/
def imageBytes (r : HostRegs) : Nat := ceilDiv (r.width.toNat * r.height.toNat) (pixelsPerByte r.depth.toNat)

/-- `ValidateConfig()`: the checks of 40_commands.md R101 in their order; on success, the plane's length. -/
def checkConfig (r : HostRegs) (capacity : Word) : ConfigCheck :=
  if ¬(r.depth = 1 ∨ r.depth = 2 ∨ r.depth = 4 ∨ r.depth = 8) then .illegal .badDepth
  else if r.mode = 3 then .illegal .badMode
  else if (r.mode = 1 ∧ r.depth ≠ 8) ∨ (r.mode = 2 ∧ r.depth ≠ 4) then .illegal .badPairing
  else if r.width.toNat = 0 ∨ 2 ^ 31 - 1 < r.width.toNat then .illegal .badWidth
  else if r.height.toNat = 0 ∨ 2 ^ 31 - 1 < r.height.toNat then .illegal .badHeight
  else if capacity.toNat < imageBytes r then .illegal .tooLarge
  else .legal (imageBytes r)

/-- `AdvX(n)`: CURSOR_X <- min(CURSOR_X + n, W), the sum exact (42_rle_decoder.md R161). -/
def Counters.advX (width n : Nat) (c : Counters) : Counters :=
  { c with curX := BitVec.ofNat 32 (min (c.curX.toNat + n) width) }

/-- `DecY(n)`: CURSOR_Y <- max(CURSOR_Y - n, -1), signed (42_rle_decoder.md R161). -/
def Counters.decY (n : Nat) (c : Counters) : Counters :=
  { c with curY := BitVec.ofInt 32 (max (c.curY.toInt - n) (-1)) }

/-- One more byte read: BYTES_CONSUMED + 1 modulo 2^32 (10_state.md R37). -/
def Counters.countByte (c : Counters) : Counters := { c with bytesConsumed := c.bytesConsumed + 1 }

/-- One more pixel written: PIXELS_WRITTEN + 1 (42_rle_decoder.md R160; log 14 for the wrap). -/
def Counters.countPixel (c : Counters) : Counters := { c with pixelsWritten := c.pixelsWritten + 1 }

/-- The cursor and the counters at the start of a decode: x = 0, y = H - 1, counters 0 (42_rle_decoder.md R141). -/
def Counters.decodeStart (height : Word) : Counters where
  curX := 0
  curY := height - 1
  bytesConsumed := 0
  pixelsWritten := 0

end Sys2Proof.Machine
end

