-- ==== Sys2Proof/Machine/Ops.lean ====
section
/-! DEFINITION. The named operations over memory and state: the byte memories, reading the source, the error
entry (`raise`), acceptance and the end of a command, validation, the pixel write and reset. -/

namespace Sys2Proof.Machine

/-! ### Byte memories -/

/-- The byte listed at address `k`, if any. -/
def Memory.lookup (k : Nat) : Memory → Option Byte
  | [] => none
  | c :: m => if k = c.1 then some c.2 else Memory.lookup k m

/-- The memory with byte `v` at address `k`. -/
def Memory.store (k : Nat) (v : Byte) : Memory → Memory
  | [] => [(k, v)]
  | c :: m =>
    if k < c.1 then (k, v) :: c :: m
    else if k = c.1 then (k, v) :: m
    else c :: Memory.store k v m

/-- The memory with byte `v` at every address below `n`. -/
def Memory.fill (n : Nat) (v : Byte) (m : Memory) : Memory :=
  (List.range n).map (fun k => (k, v)) ++ m.filter (fun c => decide (n ≤ c.1))

/-- The canonical form: strictly rising addresses. An entry can never equal what an unlisted address holds,
because an unlisted address holds no number of the model's (log 2). -/
def Memory.wf : Memory → Bool
  | [] => true
  | c :: m => m.all (fun e => decide (c.1 < e.1)) && Memory.wf m

/-- Every listed address is below `n`. -/
def Memory.below (n : Nat) (m : Memory) : Bool := m.all fun c => decide (c.1 < n)

/-- Byte `k` of the plane: the byte last written there since reset, else its free draw (10_state.md R47). -/
def State.planeRead (s : State) (k : Nat) : Byte :=
  (Memory.lookup k s.plane).getD (Config.freePlaneByte s.draw k)

/-- `MemWrite(k, 1, v)` (00_scope.md R12). -/
def State.planeWrite (s : State) (k : Nat) (v : Byte) : State := s.setPlane (Memory.store k v s.plane)

/-- Byte `k` of LIT_BUF: the byte last written there since reset, else its free draw (10_state.md R43). -/
def State.litRead (s : State) (k : Nat) : Byte :=
  (Memory.lookup k s.litBuf).getD (Config.freeLitByte s.draw k)

/-- `LIT_BUF[k] <- v`. -/
def State.litWrite (s : State) (k : Nat) (v : Byte) : State := s.setLitBuf (Memory.store k v s.litBuf)

/-! ### STATUS events -/

/-- `raise E` (60_exceptions.md R204): the one error entry. It ends the command; only STATUS changes. Nothing is
saved, there is no vector, and nothing returns from it (R208): the next acceptance clears it. -/
def raiseError (e : ErrCode) (s : State) : State := s.setStatus (Status.raised e s.status)

/-- `Finish()` (40_commands.md R102). -/
def finish (s : State) : State := s.setStatus (Status.finished s.status)

/-- `Accept(cmd)` (40_commands.md R100). -/
def accept (cmd : BitVec 4) (s : State) : State :=
  (s.setScratch { s.scratch with cmd := cmd }).setStatus (Status.accepted s.status)

/-- `STATUS.STATE <- x`. -/
def goTo (x : EngineState) (s : State) : State := s.setStatus (Status.goTo x s.status)

/-- A host write ignored because BUSY = 1 sets IGN (10_state.md R28, R46). -/
def markIgnored (s : State) : State := s.setStatus (Status.ignored s.status)

/-! ### Sequencing -/

/-- Go on with `f` when `r` is a next state. -/
def andThen (r : Result) (f : State → Result) : Result :=
  match r with
  | .next s => f s
  | .fault e => .fault e
  | .refused e => .refused e

/-! ### Validation, source and pixels -/

/-- `ValidateConfig()` (40_commands.md R101), then `k`: a failed check raises ValidationError and changes
nothing else; a passed one writes PLANE_LEN. -/
def withValidConfig (s : State) (k : State → Result) : Result :=
  match checkConfig s.regs s.capacity with
  | .illegal _ => .next (raiseError .validation s)
  | .legal len => k (s.setPlaneLen (BitVec.ofNat 32 len))

/-- BYTES_CONSUMED + 1. -/
def countByte (s : State) : State := s.setCounters s.counters.countByte

/-- The byte the source offers next, if any, and what it offers after that byte (20_memory.md R66). -/
def Source.next (src : Source) : Option (Byte × Source) :=
  match src.bytes with
  | b :: bs => some (b, { src with bytes := bs })
  | [] =>
    match src.rest with
    | .nothing => none
    | .eof => none
    | .cycle b bs => some (b, { src with bytes := bs })
    | .free stream pos => some (Config.freeStreamByte stream pos, { src with rest := .free stream (pos + 1) })

/-- `SrcRead()` (20_memory.md R66), then `k` with the byte: EOF raises TruncationError (42_rle_decoder.md R146);
neither a byte nor EOF means that the engine has no step. -/
def srcRead (s : State) (k : Byte → State → Result) : Result :=
  match s.source.next with
  | some (b, src) => k b (countByte (s.setSource src))
  | none => if s.source.rest = .eof then .next (raiseError .truncation s) else .fault .awaitingSource

/-- Whether a coordinate lies outside `[0, W) x [0, H)` (41_packing.md R124, 42_rle_decoder.md R160). -/
def outsideImage (s : State) (x y : Int) : Bool :=
  decide (x < 0 ∨ (s.imageWidth : Int) ≤ x ∨ y < 0 ∨ (s.imageHeight : Int) ≤ y)

/-- Go on with the plane byte and the slot of pixel `(x, y)` (41_packing.md R122). A byte at or above
PLANE_CAPACITY does not exist (20_memory.md R60; log 16). -/
def withPixel (s : State) (x y : Nat) (k : Nat → Nat → Result) : Result :=
  if pixelByte s.depth s.imageWidth x y < s.capacity.toNat then
    k (pixelByte s.depth s.imageWidth x y) (pixelSlot s.depth s.imageWidth x y)
  else .fault (.planeAddress (pixelByte s.depth s.imageWidth x y))

/-- `PutPixel(CURSOR_X, CURSOR_Y, v)` (42_rle_decoder.md R160), then `k`. A pixel outside the image raises
BoundsError and changes nothing else. -/
def putPixel (v : Byte) (s : State) (k : State → Result) : Result :=
  if outsideImage s s.counters.curX.toNat s.counters.curY.toInt then .next (raiseError .bounds s)
  else
    withPixel s s.counters.curX.toNat s.counters.curY.toInt.toNat fun byte slot =>
      let t := s.planeWrite byte (insertIndex (s.planeRead byte) slot s.depth v)
      k (t.setCounters t.counters.countPixel)

/-- `AdvX(n)` (42_rle_decoder.md R161). -/
def advX (n : Nat) (s : State) : State := s.setCounters (s.counters.advX s.imageWidth n)

/-- `DecY(n)` (42_rle_decoder.md R161). -/
def decY (n : Nat) (s : State) : State := s.setCounters (s.counters.decY n)

/-- The index of pixel `(x, y)` as the plane holds it (41_packing.md R120, R122). -/
def State.pixel (s : State) (x y : Nat) : Byte :=
  extractIndex (s.planeRead (pixelByte s.depth s.imageWidth x y)) (pixelSlot s.depth s.imageWidth x y) s.depth

/-! ### Reset -/

/-- The reset event (70_reset_and_hazards.md R230): every piece of the block's state takes its value of
10_state.md R47. The unspecified ones are the free draws of a new draw number (log 5). The source, the events
still to happen and the host's read bus are outside the block and keep theirs (log 11). -/
def resetBlock (s : State) : State where
  capacity := s.capacity
  regs := HostRegs.afterReset
  status := Status.afterReset
  counters := Counters.afterReset
  planeLen := 0
  scratch := Scratch.afterReset (s.draw + 1)
  litBuf := []
  plane := []
  source := s.source
  inputs := s.inputs
  readData := s.readData
  draw := s.draw + 1

end Sys2Proof.Machine
end

