-- ==== Sys2Proof/Machine/Commands.lean ====
section
/-! DEFINITION. The commands NOP, CLEAR, DECODE and the reserved codes (40_commands.md section 2,
42_rle_decoder.md section 1). Every meaning but NOP's is the engine step from EXEC. -/

namespace Sys2Proof.Machine

/-- `for k in 0 .. PLANE_LEN - 1: MemWrite(k, 1, 0x00)` (40_commands.md R104, 42_rle_decoder.md R141). -/
def zeroFill (s : State) : State := s.setPlane (Memory.fill s.planeLen.toNat 0 s.plane)

/-- NOP (40_commands.md R103): the CTRL write has no effect, not even on IGN (log 13). -/
def execNop (s : State) : Result := .next s

/-- CLEAR (40_commands.md R104). -/
def execClear (s : State) : Result := withValidConfig s fun t => .next (finish (zeroFill t))

/-- `DecodeInit()` (42_rle_decoder.md R141). -/
def decodeInit (s : State) : State := (zeroFill s).setCounters (Counters.decodeStart s.regs.height)

/-- DECODE, the EXEC step (42_rle_decoder.md R140). MODE = 0 raises ValidationError, and PLANE_LEN holds the
value just validated (R142). Else the new PLANE_LEN can be read from this step on, while BUSY = 1, by 40_commands.md
R101, 10_state.md R46 and 20_memory.md R69; read to the letter, 70_reset_and_hazards.md R237 says otherwise (DEDUCED,
unsafe: log 26). -/
def execDecode (s : State) : Result :=
  withValidConfig s fun t =>
    if t.regs.mode = 0 then .next (raiseError .validation t) else .next (goTo .hdrA (decodeInit t))

/-- A reserved command raises IllegalCommand (40_commands.md R105). -/
def illegalCommand (s : State) : Result := .next (raiseError .illegalCommand s)

/-- CMD 5 (40_commands.md R105). -/
def execReserved5 (s : State) : Result := illegalCommand s
/-- CMD 6 (40_commands.md R105). -/
def execReserved6 (s : State) : Result := illegalCommand s
/-- CMD 7 (40_commands.md R105). -/
def execReserved7 (s : State) : Result := illegalCommand s
/-- CMD 8 (40_commands.md R105). -/
def execReserved8 (s : State) : Result := illegalCommand s
/-- CMD 9 (40_commands.md R105). -/
def execReserved9 (s : State) : Result := illegalCommand s
/-- CMD 10 (40_commands.md R105). -/
def execReserved10 (s : State) : Result := illegalCommand s
/-- CMD 11 (40_commands.md R105). -/
def execReserved11 (s : State) : Result := illegalCommand s
/-- CMD 12 (40_commands.md R105). -/
def execReserved12 (s : State) : Result := illegalCommand s
/-- CMD 13 (40_commands.md R105). -/
def execReserved13 (s : State) : Result := illegalCommand s
/-- CMD 14 (40_commands.md R105). -/
def execReserved14 (s : State) : Result := illegalCommand s
/-- CMD 15 (40_commands.md R105). -/
def execReserved15 (s : State) : Result := illegalCommand s

end Sys2Proof.Machine
end

