-- ==== Sys2Proof/Machine/Packing.lean ====
section
/-! DEFINITION. The commands of the bit-packing unit: GET_INDEX and SET_INDEX (41_packing.md section 2). -/

namespace Sys2Proof.Machine

/-- `ValidateConfig()`, `CheckBounds(PIX_X, PIX_Y)` and `PixelAddr`, in this order and shared by both commands
(41_packing.md R122, R124): ValidationError first, then BoundsError (60_exceptions.md R207). PLANE_LEN is written by
the validation that passed (10_state.md R39, 40_commands.md R101). The BoundsError after it changes only STATUS
(60_exceptions.md R204), so PLANE_LEN keeps that value, as in 42_rle_decoder.md R142 and V-C16 (DEDUCED, unsafe:
log 12). -/
def withIndexedPixel (s : State) (k : State → Nat → Nat → Result) : Result :=
  withValidConfig s fun t =>
    if outsideImage t t.regs.pixX.toNat t.regs.pixY.toNat then .next (raiseError .bounds t)
    else withPixel t t.regs.pixX.toNat t.regs.pixY.toNat (k t)

/-- GET_INDEX (41_packing.md R125), the engine step from EXEC. -/
def execGetIndex (s : State) : Result :=
  withIndexedPixel s fun t byte slot =>
    .next (finish (t.setRegs { t.regs with pixData := extractIndex (t.planeRead byte) slot t.depth }))

/-- SET_INDEX (41_packing.md R126), the engine step from EXEC. -/
def execSetIndex (s : State) : Result :=
  withIndexedPixel s fun t byte slot =>
    .next (finish (t.planeWrite byte (insertIndex (t.planeRead byte) slot t.depth t.regs.pixData)))

end Sys2Proof.Machine
end

