-- ==== Sys2Proof/WellFormed.lean ====
section
/-! DEFINITION. Which instructions the encoding admits. -/

namespace Sys2Proof

/-- An instruction the encoding can write at the configured depth (30_encoding.md R82, R84, R85): the count of
an encoded run is not 0; the count of an absolute run is at least 3 and its literal bytes are exactly
N(b, depth), pad bytes included. Every other operand value is legal (R87). -/
def Instr.wf (depth : Nat) : Instr → Bool
  | .encodedRun a _ => a != 0
  | .eol => true
  | .eob => true
  | .delta _ _ => true
  | .absolute b literal => decide (3 ≤ b.toNat) && literal.length == paddedLength b.toNat depth
  | .nop => true
  | .clear => true
  | .decode => true
  | .getIndex => true
  | .setIndex => true
  | .reserved5 => true
  | .reserved6 => true
  | .reserved7 => true
  | .reserved8 => true
  | .reserved9 => true
  | .reserved10 => true
  | .reserved11 => true
  | .reserved12 => true
  | .reserved13 => true
  | .reserved14 => true
  | .reserved15 => true

end Sys2Proof
end

