-- ==== Sys2Proof/Decode.lean ====
section
/-! DEFINITION. Reading an instruction from stream bytes or from a word written to CTRL, and writing one. -/

namespace Sys2Proof

/-- Where an instruction stands: a record in the bytes of the stream, first byte first (30_encoding.md R80), or
a command in a word that the host writes to CTRL (R89). -/
inductive Words where
  | stream (bytes : List Byte)
  | ctrl (word : Word)
  deriving DecidableEq, Repr

/-- Why a list of stream bytes does not hold a whole record. No header is illegal (30_encoding.md R87): a
stream can only be too short (yet). -/
inductive DecodeError where
  /-- No byte is there. -/
  | noByte
  /-- The header's second byte is not there. -/
  | headerCut
  /-- `dx` or `dy` is not there. -/
  | deltaCut
  /-- Fewer than N(b, depth) literal bytes are there. -/
  | literalCut
  deriving DecidableEq, Repr

/-- What the decoder answers: an instruction and the stream bytes after it, or why there is none (yet). -/
inductive Decoded where
  | instr (i : Instr) (rest : List Byte)
  | tooShort (e : DecodeError)
  deriving DecidableEq, Repr

/-- The record that begins with the header `(a, b)`, and the bytes after it. The order of the tests is that of
30_encoding.md R82. -/
def decodeAfterHeader (depth : Nat) (a b : Byte) (rest : List Byte) : Decoded :=
  if a ≠ 0 then .instr (.encodedRun a b) rest
  else if b = 0 then .instr .eol rest
  else if b = 1 then .instr .eob rest
  else if b = 2 then
    match rest with
    | dx :: dy :: rest' => .instr (.delta dx dy) rest'
    | _ => .tooShort .deltaCut
  else if paddedLength b.toNat depth ≤ rest.length then
    .instr (.absolute b (rest.take (paddedLength b.toNat depth))) (rest.drop (paddedLength b.toNat depth))
  else .tooShort .literalCut

/-- The first record of a stream and the bytes after it (30_encoding.md R80 to R85). The depth matters only for
the length of an ABSOLUTE record (R88). -/
def decodeRecord (depth : Nat) : List Byte → Decoded
  | [] => .tooShort .noByte
  | [_] => .tooShort .headerCut
  | a :: b :: rest => decodeAfterHeader depth a b rest

/-- The command of a code (30_encoding.md R90). -/
def decodeCommand (cmd : BitVec 4) : Instr :=
  match cmd.toNat with
  | 0 => .nop
  | 1 => .clear
  | 2 => .decode
  | 3 => .getIndex
  | 4 => .setIndex
  | 5 => .reserved5
  | 6 => .reserved6
  | 7 => .reserved7
  | 8 => .reserved8
  | 9 => .reserved9
  | 10 => .reserved10
  | 11 => .reserved11
  | 12 => .reserved12
  | 13 => .reserved13
  | 14 => .reserved14
  | _ => .reserved15

/-- CMD = CTRL[3:0] of a word written to CTRL; bits [31:4] are ignored (10_state.md R23, 30_encoding.md R89). -/
def commandField (word : Word) : BitVec 4 := word.extractLsb' 0 4

/-- The instruction at the start of `words`, and the stream bytes after it. -/
def decode (depth : Nat) : Words → Decoded
  | .stream bytes => decodeRecord depth bytes
  | .ctrl word => .instr (decodeCommand (commandField word)) []

/-- The words of an instruction (30_encoding.md R82, R90, R92). -/
def encode : Instr → Words
  | .encodedRun a b => .stream [a, b]
  | .eol => .stream [0x00, 0x00]
  | .eob => .stream [0x00, 0x01]
  | .delta dx dy => .stream [0x00, 0x02, dx, dy]
  | .absolute b literal => .stream (0x00 :: b :: literal)
  | .nop => .ctrl 0
  | .clear => .ctrl 1
  | .decode => .ctrl 2
  | .getIndex => .ctrl 3
  | .setIndex => .ctrl 4
  | .reserved5 => .ctrl 5
  | .reserved6 => .ctrl 6
  | .reserved7 => .ctrl 7
  | .reserved8 => .ctrl 8
  | .reserved9 => .ctrl 9
  | .reserved10 => .ctrl 10
  | .reserved11 => .ctrl 11
  | .reserved12 => .ctrl 12
  | .reserved13 => .ctrl 13
  | .reserved14 => .ctrl 14
  | .reserved15 => .ctrl 15

/-- The stream bytes of a record; a command has none. -/
def recordBytes (i : Instr) : List Byte :=
  match encode i with
  | .stream bytes => bytes
  | .ctrl _ => []

/-- The total length of a record in bytes (30_encoding.md R82's table); a command takes no stream byte. -/
def recordLength (depth : Nat) : Instr → Nat
  | .encodedRun _ _ => 2
  | .eol => 2
  | .eob => 2
  | .delta _ _ => 4
  | .absolute b _ => 2 + paddedLength b.toNat depth
  | .nop => 0
  | .clear => 0
  | .decode => 0
  | .getIndex => 0
  | .setIndex => 0
  | .reserved5 => 0
  | .reserved6 => 0
  | .reserved7 => 0
  | .reserved8 => 0
  | .reserved9 => 0
  | .reserved10 => 0
  | .reserved11 => 0
  | .reserved12 => 0
  | .reserved13 => 0
  | .reserved14 => 0
  | .reserved15 => 0

/-- The stream bytes of a number that spec/opcode_table.json's bit numbering gives: 16-bit units
HW = a << 8 | b (30_encoding.md R81), the first unit in bits [15:0], each unit's high byte first in the stream.
DESIGN CHOICE (log 18): units after the header follow the same rule. There are as many as the header's record can
need at depth 8. -/
def tableBytes (w : Nat) : List Byte :=
  (List.range (1 + max 1 (paddedLength (w % 256) 8 / 2))).flatMap fun i =>
    [BitVec.ofNat 8 (w >>> (16 * i + 8)), BitVec.ofNat 8 (w >>> (16 * i))]

/-- The instruction of a table row's word: rows of at most 8 bits are command codes in CTRL[3:0], wider rows are
records, read at depth 8 (log 18). The bits above `nbits` are 0. -/
def decodeTableWord (nbits w : Nat) : Option Instr :=
  if nbits ≤ 8 then some (decodeCommand (commandField (BitVec.ofNat 32 (w % 2 ^ nbits))))
  else
    match decodeRecord 8 (tableBytes (w % 2 ^ nbits)) with
    | .instr i _ => some i
    | .tooShort _ => none

end Sys2Proof
end

