-- ==== Sys2Proof/Machine/Records.lean ====
section
/-! DEFINITION. The RLE decoder: the effect of each byte the engine reads and of each pixel it writes
(42_rle_decoder.md section 3), and the meanings of the five records, built from them (section 4). -/

namespace Sys2Proof.Machine

/-! ### What a byte does once it is read -/

/-- HDR_A with the byte `a` (42_rle_decoder.md R145). -/
def latchA (a : Byte) (s : State) : State := goTo .hdrB (s.setScratch { s.scratch with a := a })

/-- `S.B <- r` (42_rle_decoder.md R147). -/
def latchB (b : Byte) (s : State) : State := s.setScratch { s.scratch with b := b }

/-- An encoded run begins (R147): S.LEFT <- S.A, S.I <- 0. -/
def enterRun (s : State) : State := goTo .run (s.setScratch { s.scratch with left := s.scratch.a, i := 0 })

/-- CURSOR_X <- 0; DecY(1) (R147, R152). -/
def lineEnd (s : State) : State :=
  goTo .hdrA (decY 1 (s.setCounters { s.counters with curX := 0 }))

/-- A delta begins (R147). -/
def enterDelta (s : State) : State := goTo .deltaX s

/-- An absolute run of `b` pixels begins (R147): S.COUNT <- b, S.NEED <- N(b, d), S.FILL <- 0. -/
def enterAbsolute (b : Byte) (s : State) : State :=
  goTo .absRead (s.setScratch
    { s.scratch with count := b, need := BitVec.ofNat 9 (paddedLength b.toNat s.depth), fill := 0 })

/-- The dispatch of HDR_B on S.A and the second byte `r` (R147, 30_encoding.md R82). -/
def dispatchHeader (r : Byte) (s : State) : State :=
  if s.scratch.a ≠ 0 then enterRun s
  else if r = 0 then lineEnd s
  else if r = 1 then finish s
  else if r = 2 then enterDelta s
  else enterAbsolute r s

/-- DELTA_X with the byte `dx` (R155). -/
def latchDx (dx : Byte) (s : State) : State := goTo .deltaY (s.setScratch { s.scratch with dx := dx })

/-- DELTA_Y with the byte `dy` (R156): AdvX(S.DX), DecY(dy). -/
def moveByDelta (dy : Byte) (s : State) : State := goTo .hdrA (decY dy.toNat (advX s.scratch.dx.toNat s))

/-- ABS_READ with the byte `r` (R172). LIT_BUF has no byte above 255 (log 16). -/
def latchLiteral (r : Byte) (s : State) : Result :=
  if s.scratch.fill.toNat < 256 then
    let t := (s.litWrite s.scratch.fill.toNat r).setScratch { s.scratch with fill := s.scratch.fill + 1 }
    if t.scratch.fill = t.scratch.need then
      .next (goTo .absEmit (t.setScratch { t.scratch with i := 0 }))
    else .next t
  else .fault (.litBufIndex s.scratch.fill.toNat)

/-! ### The pixel steps -/

/-- State RUN: one pixel of an encoded run (42_rle_decoder.md R151). -/
def runStep (s : State) : Result :=
  putPixel (extractIndex s.scratch.b (s.scratch.i.toNat % pixelsPerByte s.depth) s.depth) s fun t =>
    let u := advX 1 (t.setScratch { t.scratch with i := t.scratch.i + 1, left := t.scratch.left - 1 })
    if u.scratch.left = 0 then .next (goTo .hdrA u) else .next u

/-- State ABS_EMIT: one pixel of an absolute run (42_rle_decoder.md R173). -/
def absEmitStep (s : State) : Result :=
  putPixel
    (extractIndex (s.litRead (s.scratch.i.toNat / pixelsPerByte s.depth))
      (s.scratch.i.toNat % pixelsPerByte s.depth) s.depth) s fun t =>
    let u := advX 1 (t.setScratch { t.scratch with i := t.scratch.i + 1 })
    if u.scratch.i = u.scratch.count then .next (goTo .hdrA u) else .next u

/-- At most `n` pixel steps, while the engine is in RUN or ABS_EMIT. -/
def pixelSteps : Nat → State → Result
  | 0, s => .next s
  | n + 1, s =>
    match s.status.state with
    | .run => andThen (runStep s) (pixelSteps n)
    | .absEmit => andThen (absEmitStep s) (pixelSteps n)
    | .idle => .next s
    | .exec => .next s
    | .hdrA => .next s
    | .hdrB => .next s
    | .deltaX => .next s
    | .deltaY => .next s
    | .absRead => .next s

/-- The steps of ABS_READ on the literal bytes of an absolute run (42_rle_decoder.md R170, R172). -/
def readLiterals : List Byte → State → Result
  | [], s => .next s
  | r :: rs, s => andThen (latchLiteral r (countByte s)) (readLiterals rs)

/-! ### The records -/

/-- HDR_A and HDR_B up to the dispatch: both header bytes are read (42_rle_decoder.md R145, R147). -/
def readHeader (a b : Byte) (s : State) : State := latchB b (countByte (latchA a (countByte s)))

/-- ENCODED_RUN (42_rle_decoder.md R150): HDR_A, HDR_B, then `a` RUN steps. -/
def execEncodedRun (a b : Byte) (s : State) : Result := pixelSteps a.toNat (enterRun (readHeader a b s))

/-- EOL (R152): HDR_A, then HDR_B with CURSOR_X <- 0; DecY(1). -/
def execEol (s : State) : Result := .next (lineEnd (readHeader 0 0 s))

/-- EOB (R153): HDR_A, then HDR_B with Finish(). -/
def execEob (s : State) : Result := .next (finish (readHeader 0 1 s))

/-- DELTA (R154): HDR_A, HDR_B, DELTA_X, DELTA_Y. -/
def execDelta (dx dy : Byte) (s : State) : Result :=
  .next (moveByDelta dy (countByte (latchDx dx (countByte (enterDelta (readHeader 0 2 s))))))

/-- ABSOLUTE (R170): HDR_A, HDR_B, N(b, d) ABS_READ steps, then `b` ABS_EMIT steps. -/
def execAbsolute (b : Byte) (literal : List Byte) (s : State) : Result :=
  andThen (readLiterals literal (enterAbsolute b (readHeader 0 b s))) (pixelSteps b.toNat)

end Sys2Proof.Machine
end

