-- ==== Sys2Proof/Machine/Dispatch.lean ====
section
/-! DEFINITION. The meaning of each instruction, one arm per constructor of Instr. -/

namespace Sys2Proof.Machine

def exec (i : Instr) (s : State) : Host.Outcome State Fault Refusal :=
  match i with
  -- records of the stream (42_rle_decoder.md section 4)
  | .encodedRun a b => Sys2Proof.Machine.execEncodedRun a b s
  | .eol => Sys2Proof.Machine.execEol s
  | .eob => Sys2Proof.Machine.execEob s
  | .delta dx dy => Sys2Proof.Machine.execDelta dx dy s
  | .absolute b literal => Sys2Proof.Machine.execAbsolute b literal s
  -- commands (40_commands.md, 41_packing.md, 42_rle_decoder.md section 1)
  | .nop => Sys2Proof.Machine.execNop s
  | .clear => Sys2Proof.Machine.execClear s
  | .decode => Sys2Proof.Machine.execDecode s
  | .getIndex => Sys2Proof.Machine.execGetIndex s
  | .setIndex => Sys2Proof.Machine.execSetIndex s
  | .reserved5 => Sys2Proof.Machine.execReserved5 s
  | .reserved6 => Sys2Proof.Machine.execReserved6 s
  | .reserved7 => Sys2Proof.Machine.execReserved7 s
  | .reserved8 => Sys2Proof.Machine.execReserved8 s
  | .reserved9 => Sys2Proof.Machine.execReserved9 s
  | .reserved10 => Sys2Proof.Machine.execReserved10 s
  | .reserved11 => Sys2Proof.Machine.execReserved11 s
  | .reserved12 => Sys2Proof.Machine.execReserved12 s
  | .reserved13 => Sys2Proof.Machine.execReserved13 s
  | .reserved14 => Sys2Proof.Machine.execReserved14 s
  | .reserved15 => Sys2Proof.Machine.execReserved15 s

end Sys2Proof.Machine
end

