-- ==== Sys2Proof/Machine/HostBus.lean ====
section
/-! DEFINITION. The host bus: the register window and the plane window (10_state.md sections 3 and 5,
20_memory.md sections 1 and 6). -/

namespace Sys2Proof.Machine

/-- PLANE_BASE (20_memory.md R60). -/
def planeBase : Nat := 0x10000

/-- The word an address lies in: address bits [1:0] are ignored (20_memory.md R61). -/
def wordAddress (addr : Word) : Nat := addr.toNat / 4 * 4

/-- The number of words in the plane window, `ceil(PLANE_CAPACITY / 4)` (20_memory.md R60). -/
def planeWords (s : State) : Nat := ceilDiv s.capacity.toNat 4

/-- Where a word address leads (20_memory.md R60, R61). -/
inductive Target where
  /-- The register at a byte offset of the register window. -/
  | register (offset : Nat)
  /-- Word `k` of the plane window. -/
  | planeWord (k : Nat)
  /-- Outside both windows. -/
  | unmapped
  deriving DecidableEq, Repr

/-- The target of a host access (20_memory.md R60, R61). -/
def hostTarget (s : State) (addr : Word) : Target :=
  if wordAddress addr < planeBase then .register (wordAddress addr)
  else if (wordAddress addr - planeBase) / 4 < planeWords s then .planeWord ((wordAddress addr - planeBase) / 4)
  else .unmapped

/-! ### Reads -/

/-- What a register reads as (10_state.md R22 to R40). CTRL and reserved offsets read 0 (R23, R41). -/
def readRegister (s : State) (offset : Nat) : Word :=
  match offset with
  | 0x00 => 0
  | 0x04 => s.status.word
  | 0x08 => s.regs.configWord
  | 0x0C => s.regs.width
  | 0x10 => s.regs.height
  | 0x14 => s.regs.pixX
  | 0x18 => s.regs.pixY
  | 0x1C => s.regs.pixData.setWidth 32
  | 0x20 => s.counters.curX
  | 0x24 => s.counters.curY
  | 0x28 => s.counters.bytesConsumed
  | 0x2C => s.counters.pixelsWritten
  | 0x30 => s.planeLen
  | 0x34 => s.capacity
  | _ => 0

/-- `Byte(j)` of the plane window: 0 at or above PLANE_CAPACITY (20_memory.md R62). -/
def windowByte (s : State) (j : Nat) : Byte := if j < s.capacity.toNat then s.planeRead j else 0

/-- A word of the plane window, little-endian (20_memory.md R62); 0 while BUSY = 1 (R73). -/
def readPlaneWord (s : State) (k : Nat) : Word :=
  if s.status.busy then 0
  else (windowByte s (4 * k + 3) ++ windowByte s (4 * k + 2) ++ windowByte s (4 * k + 1) ++ windowByte s (4 * k) :
    BitVec (8 + 8 + 8 + 8))

/-- What a host read returns. Reads have no side effects (20_memory.md R65). -/
def hostReadValue (s : State) (addr : Word) : Word :=
  match hostTarget s addr with
  | .register offset => readRegister s offset
  | .planeWord k => readPlaneWord s k
  | .unmapped => 0

/-! ### Writes -/

/-- A write that BUSY = 1 locks: ignored with IGN set, else stored (10_state.md R46). -/
def unlessBusy (s : State) (stored : State) : State := if s.status.busy then markIgnored s else stored

/-- A write of CTRL (10_state.md R23): CMD = 0 has no effect at all (40_commands.md R103, log 13); another code is
accepted, or ignored with IGN set while BUSY = 1. -/
def writeCtrl (s : State) (data : Word) : State :=
  if commandField data = 0 then s else unlessBusy s (accept (commandField data) s)

/-- A write of a register (10_state.md R22, R46). Read-only registers and reserved offsets ignore it and never
set IGN (R41, R46). -/
def writeRegister (s : State) (offset : Nat) (data : Word) : State :=
  match offset with
  | 0x00 => writeCtrl s data
  | 0x08 => unlessBusy s (s.setRegs (s.regs.withConfig data))
  | 0x0C => unlessBusy s (s.setRegs { s.regs with width := data })
  | 0x10 => unlessBusy s (s.setRegs { s.regs with height := data })
  | 0x14 => unlessBusy s (s.setRegs { s.regs with pixX := data })
  | 0x18 => unlessBusy s (s.setRegs { s.regs with pixY := data })
  | 0x1C => unlessBusy s (s.setRegs { s.regs with pixData := data.extractLsb' 0 8 })
  | _ => s

/-- Write one byte through the window; a byte at or above PLANE_CAPACITY does not exist (20_memory.md R62). -/
def writeWindowByte (s : State) (j : Nat) (v : Byte) : State :=
  if j < s.capacity.toNat then s.planeWrite j v else s

/-- Write word `k` of the plane window, little-endian (20_memory.md R62). -/
def writeWindowBytes (s : State) (k : Nat) (data : Word) : State :=
  writeWindowByte
    (writeWindowByte
      (writeWindowByte (writeWindowByte s (4 * k) (data.extractLsb' 0 8)) (4 * k + 1) (data.extractLsb' 8 8))
      (4 * k + 2) (data.extractLsb' 16 8))
    (4 * k + 3) (data.extractLsb' 24 8)

/-- A write of word `k` of the plane window; ignored with IGN set while BUSY = 1 (20_memory.md R73). -/
def writePlaneWord (s : State) (k : Nat) (data : Word) : State := unlessBusy s (writeWindowBytes s k data)

/-- A host write (20_memory.md R61). -/
def hostWriteState (s : State) (addr data : Word) : State :=
  match hostTarget s addr with
  | .register offset => writeRegister s offset data
  | .planeWord k => writePlaneWord s k data
  | .unmapped => s

/-- Whether a host write gives the command NOP: a write of CTRL with CMD = 0 (40_commands.md R103). -/
def isNopWrite (s : State) (addr data : Word) : Bool :=
  decide (hostTarget s addr = .register 0x00) && decide (commandField data = 0)

end Sys2Proof.Machine
end

