-- ==== Sys2Proof/Machine/Engine.lean ====
section
/-! DEFINITION. The agents' steps: the engine's single step (42_rle_decoder.md R143), the engine's turn, and the
events of the host, the source and the reset input. -/

namespace Sys2Proof.Machine

/-- The EXEC step (40_commands.md R106): the command of S.CMD. S.CMD = 0 never occurs in EXEC (log 17). -/
def execStep (s : State) : Result :=
  if s.scratch.cmd = 0 then .fault .noCommand else exec (decodeCommand s.scratch.cmd) s

/-- One step of the engine: one byte read, one pixel written, or one whole short command (20_memory.md R65,
42_rle_decoder.md R143). While it is IDLE the engine has no step (10_state.md R29). -/
def engineStep (s : State) : Result :=
  match s.status.state with
  | .idle => .fault .awaitingHost
  | .exec => execStep s
  | .hdrA => srcRead s fun r t => .next (latchA r t)
  | .hdrB => srcRead s fun r t => .next (dispatchHeader r (latchB r t))
  | .run => runStep s
  | .deltaX => srcRead s fun r t => .next (latchDx r t)
  | .deltaY => srcRead s fun r t => .next (moveByDelta r t)
  | .absRead => srcRead s latchLiteral
  | .absEmit => absEmitStep s

/-- `n` steps of the engine. -/
def engineSteps : Nat → State → Result
  | 0, s => .next s
  | n + 1, s => andThen (engineStep s) (engineSteps n)

/-- The engine's turn when no other agent is scheduled: at the start of a record whose bytes are all listed in the
source's offer, the whole record; else one step (log 7). -/
def engineTurn (s : State) : Result :=
  match s.status.state with
  | .hdrA =>
    match decodeRecord s.depth s.source.bytes with
    | .instr i rest => exec i (s.setSource { s.source with bytes := rest })
    | .tooShort _ => engineStep s
  | .idle => engineStep s
  | .exec => engineStep s
  | .hdrB => engineStep s
  | .run => engineStep s
  | .deltaX => engineStep s
  | .deltaY => engineStep s
  | .absRead => engineStep s
  | .absEmit => engineStep s

/-- A host write as a step: a CTRL write with CMD = 0 is the command NOP (40_commands.md R103). -/
def hostWriteStep (addr data : Word) (s : State) : Result :=
  if isNopWrite s addr data then exec .nop s else .next (hostWriteState s addr data)

/-- Whether a DECODE job reads the source: from the end of its EXEC step to its end (20_memory.md R68). -/
def jobRuns (s : State) : Bool :=
  match s.status.state with
  | .idle => false
  | .exec => false
  | .hdrA => true
  | .hdrB => true
  | .run => true
  | .deltaX => true
  | .deltaY => true
  | .absRead => true
  | .absEmit => true

/-- The source offers one more byte. After EOF it offers only EOF (20_memory.md R66), and nothing follows a stream
that never ends, so the byte is dropped there (log 10). -/
def offerByte (b : Byte) (s : State) : State :=
  if s.source.rest = .nothing then s.setSource { s.source with bytes := s.source.bytes ++ [b] } else s

/-- The source offers `rest` after the bytes it offers: EOF, or a stream that never ends (20_memory.md R66). It stays
with what it has offered before (log 10). -/
def offerRest (rest : SourceRest) (s : State) : State :=
  if s.source.rest = .nothing then s.setSource { s.source with rest := rest } else s

/-- The source begins a new stream. Within a job the stream is one (20_memory.md R66), so a job that runs keeps
its own (log 10). -/
def startStream (s : State) : State := if jobRuns s then s else s.setSource { bytes := [], rest := .nothing }

/-- The step of one event; `s` is the state with the event taken off the list. `wait` is not handled here. -/
def eventStep (e : Event) (s : State) : Result :=
  match e with
  | .hostWrite addr data => hostWriteStep addr data s
  | .hostRead addr => .next (s.setReadData (hostReadValue s addr))
  | .wait => .next s
  | .engine => engineStep s
  | .sourceByte b => .next (offerByte b s)
  | .sourceEof => .next (offerRest .eof s)
  | .sourceCycle b bs => .next (offerRest (.cycle b bs) s)
  | .sourceFree stream => .next (offerRest (.free stream 0) s)
  | .sourceStart => .next (startStream s)
  | .reset => .next (resetBlock s)

/-- The next step of the machine (20_memory.md R69; log 6): the first event of the list, or the engine's turn when
no event is left or the host waits for BUSY = 0. -/
def nextStep (s : State) : Result :=
  match s.inputs with
  | [] => engineTurn s
  | e :: rest =>
    if e = .wait ∧ s.status.busy then engineTurn s else eventStep e (s.setInputs rest)

/-- The state in which the next step runs the instruction of a table row's word (log 19). A record stands at the
start of what the source offers, in a DECODE job at depth 8; a command other than NOP has been accepted; NOP is
a host write of CTRL still to happen. -/
def placeWord (nbits w : Nat) (s : State) : State :=
  if nbits ≤ 8 then
    let word : Word := BitVec.ofNat 32 (w % 2 ^ nbits)
    if commandField word = 0 then s.setInputs [.hostWrite 0 word]
    else accept (commandField word) (s.setInputs [])
  else
    goTo .hdrA
      (((accept 2 (s.setInputs [])).setSource { bytes := tableBytes (w % 2 ^ nbits), rest := .nothing }).setRegs
        { s.regs with depth := 8, mode := 1 })

end Sys2Proof.Machine
end

