-- ==== Sys2Proof/Machine/Step.lean ====
section
/-! DEFINITION. The step of the machine, and how the host places an instruction where the next step runs it. -/

namespace Sys2Proof.Machine

/-- One step of the machine: one atomic step of one agent, or the engine's turn (20_memory.md R69). -/
def step (s : State) : Host.Outcome State Fault Refusal := nextStep s

/-- `s` with the instruction of a table row's word placed where the next step runs it (log 19). -/
def State.withFetchWord (s : State) (nbits w : Nat) : State := placeWord nbits w s

end Sys2Proof.Machine
end

