-- ==== Sys2Proof/Safety.lean ====
section
/-! DEFINITION. The terms that claims about the block use: a legal configuration, the invariant of the machine, and
the spec's whole-decode function (42_rle_decoder.md R180), which names no step of the machine. -/

namespace Sys2Proof.Machine

/-! ### Legal configurations -/

/-- What a legal configuration is (40_commands.md R101, 60_exceptions.md R201): depth 1, 2, 4 or 8; a mode other
than 3; the pairings {any + 0, 8 + 1, 4 + 2}; W and H from 1 to 2^31 - 1; and an image of at most PLANE_CAPACITY
bytes. -/
abbrev LegalConfig (r : HostRegs) (capacity : Word) : Prop :=
  (r.depth.toNat = 1 ∨ r.depth.toNat = 2 ∨ r.depth.toNat = 4 ∨ r.depth.toNat = 8) ∧
  r.mode.toNat ≠ 3 ∧
  (r.mode.toNat = 1 → r.depth.toNat = 8) ∧
  (r.mode.toNat = 2 → r.depth.toNat = 4) ∧
  (1 ≤ r.width.toNat ∧ r.width.toNat ≤ 2 ^ 31 - 1) ∧
  (1 ≤ r.height.toNat ∧ r.height.toNat ≤ 2 ^ 31 - 1) ∧
  imageBytes r ≤ capacity.toNat

/-- A legal configuration of an RLE decode: MODE 1 or 2 as well (42_rle_decoder.md R142). -/
abbrev LegalDecodeConfig (r : HostRegs) (capacity : Word) : Prop :=
  LegalConfig r capacity ∧ r.mode.toNat ≠ 0

/-! ### Pixels written -/

/-- Plane byte `k` after the pixels `value 0` to `value (m - 1)` are written from the cursor to the right, every other
bit of the byte as it was (42_rle_decoder.md R160, 41_packing.md R121, R122). -/
def paintedByte (s : State) (m : Nat) (value : Nat → Byte) (k : Nat) : Byte :=
  (List.range m).foldl
    (fun byte i =>
      let x := s.counters.curX.toNat + i
      let y := s.counters.curY.toInt.toNat
      if k = pixelByte s.depth s.imageWidth x y then
        insertIndex byte (pixelSlot s.depth s.imageWidth x y) s.depth (value i)
      else byte)
    (s.planeRead k)

/-! ### The invariant -/

/-- The cursor lies in [0, W] x [-1, H-1] (10_state.md R35, R36). -/
abbrev CursorInRange (s : State) : Prop :=
  s.counters.curX.toNat ≤ s.imageWidth ∧ -1 ≤ s.counters.curY.toInt ∧ s.counters.curY.toInt < s.imageHeight

/-- How many pixels lie before the cursor in the order of writing: whole rows below it, then those left of it in
its row (42_rle_decoder.md R184). -/
def pixelsBefore (s : State) : Nat :=
  if s.counters.curY.toInt < 0 then s.imageWidth * s.imageHeight
  else ((s.imageHeight : Int) - 1 - s.counters.curY.toInt).toNat * s.imageWidth + s.counters.curX.toNat

/-- What the datapath registers hold in each state of a decode (42_rle_decoder.md R147, R151, R172, R173: the
conditions "on entry"). -/
def ScratchFits (s : State) : Prop :=
  match s.status.state with
  | .run => s.scratch.a ≠ 0 ∧ 1 ≤ s.scratch.left.toNat ∧ s.scratch.i.toNat + s.scratch.left.toNat = s.scratch.a.toNat
  | .absRead => 3 ≤ s.scratch.count.toNat ∧ s.scratch.need.toNat = paddedLength s.scratch.count.toNat s.depth ∧
      s.scratch.fill.toNat < s.scratch.need.toNat
  | .absEmit => 3 ≤ s.scratch.count.toNat ∧ s.scratch.i.toNat < s.scratch.count.toNat
  | .idle => True
  | .exec => True
  | .hdrA => True
  | .hdrB => True
  | .deltaX => True
  | .deltaY => True

/-- What holds while a DECODE job runs (42_rle_decoder.md): its configuration was validated and is locked, the
cursor is in range, and no more pixels are written than lie before the cursor (R184, R186). -/
structure JobInv (s : State) : Prop where
  command : s.scratch.cmd = 2
  config : LegalDecodeConfig s.regs s.capacity
  planeLen : s.planeLen.toNat = imageBytes s.regs
  cursor : CursorInRange s
  written : s.counters.pixelsWritten.toNat ≤ pixelsBefore s
  scratch : ScratchFits s

/-- The invariant of the machine: what every state that a run reaches satisfies. -/
structure Inv (s : State) : Prop where
  /-- 1 <= PLANE_CAPACITY <= 2^32 - 2^16 (00_scope.md R8). -/
  capacity : 1 ≤ s.capacity.toNat ∧ s.capacity.toNat ≤ 2 ^ 32 - 2 ^ 16
  /-- BUSY = 1 exactly while STATE is not IDLE (10_state.md R25). -/
  busyState : s.status.busy = true ↔ s.status.state ≠ .idle
  /-- DONE = 1 and ERROR = 1 never hold together (10_state.md R26). -/
  doneError : ¬(s.status.done = true ∧ s.status.error = true)
  /-- While a command runs, neither DONE nor ERROR is set (10_state.md R26, R27). -/
  busyClear : s.status.busy = true → s.status.done = false ∧ s.status.error = false
  /-- ERR_CODE is 0 exactly when ERROR is 0 (10_state.md R27, 60_exceptions.md R200). -/
  errorCode : s.status.error = true ↔ s.status.errCode ≠ .noError
  /-- S.CMD = 0 never occurs in EXEC (40_commands.md R106). -/
  execCommand : s.status.state = .exec → s.scratch.cmd ≠ 0
  /-- A DECODE job that runs is in order. -/
  job : jobRuns s = true → JobInv s
  /-- The plane is in canonical form. -/
  planeWf : Memory.wf s.plane = true
  /-- Every listed plane byte exists (10_state.md R44). -/
  planeBelow : Memory.below s.capacity.toNat s.plane = true
  /-- LIT_BUF is in canonical form. -/
  litWf : Memory.wf s.litBuf = true
  /-- Every listed byte of LIT_BUF exists (10_state.md R43). -/
  litBelow : Memory.below 256 s.litBuf = true

/-! ### The whole decode as a function (42_rle_decoder.md R180) -/

/-- The variables of `DecodeRLE`: plane, x, y, n and px. -/
structure DecodeVars where
  plane : List Byte
  x : Nat
  y : Int
  n : Nat
  px : Nat
  deriving DecidableEq, Repr

/-- How `DecodeRLE` stops. -/
inductive DecodeStop where
  | done
  | truncation
  | bounds
  deriving DecidableEq, Repr

/-- `put(v)` of R180 for a list of values: the variables at the end, and whether it stopped with BoundsError. -/
def putPixels (w d : Nat) : List Byte → DecodeVars → DecodeVars × Bool
  | [], r => (r, false)
  | v :: vs, r =>
    if w ≤ r.x ∨ r.y < 0 then (r, true)
    else
      let p := r.y.toNat * w + r.x
      let k := p / (8 / d)
      putPixels w d vs
        { r with plane := r.plane.set k (insertIndex (r.plane.getD k 0) (p % (8 / d)) d v), px := r.px + 1,
                 x := min (r.x + 1) w }

/-- The loop of R180 on the bytes still to read. `fuel` bounds the number of records; every record takes at least
two bytes, so the length of the stream is enough. -/
def decodeRLELoop (w d : Nat) : Nat → List Byte → DecodeVars → DecodeStop × DecodeVars
  | 0, bytes, r => (.truncation, { r with n := r.n + bytes.length })
  | fuel + 1, bytes, r =>
    match bytes with
    | [] => (.truncation, r)
    | [_] => (.truncation, { r with n := r.n + 1 })
    | a :: b :: rest =>
      if a ≠ 0 then
        let r' := putPixels w d ((List.range a.toNat).map fun i => extractIndex b (i % (8 / d)) d)
          { r with n := r.n + 2 }
        if r'.2 then (.bounds, r'.1) else decodeRLELoop w d fuel rest r'.1
      else if b = 0 then decodeRLELoop w d fuel rest { r with n := r.n + 2, x := 0, y := max (r.y - 1) (-1) }
      else if b = 1 then (.done, { r with n := r.n + 2 })
      else if b = 2 then
        match rest with
        | dx :: dy :: rest' =>
          decodeRLELoop w d fuel rest'
            { r with n := r.n + 4, x := min (r.x + dx.toNat) w, y := max (r.y - dy.toNat) (-1) }
        | _ => (.truncation, { r with n := r.n + 2 + rest.length })
      else
        let len := paddedLength b.toNat d
        if rest.length < len then (.truncation, { r with n := r.n + 2 + rest.length })
        else
          let r' := putPixels w d
            ((List.range b.toNat).map fun i => extractIndex (rest.getD (i / (8 / d)) 0) (i % (8 / d)) d)
            { r with n := r.n + 2 + len }
          if r'.2 then (.bounds, r'.1) else decodeRLELoop w d fuel (rest.drop len) r'.1

/-- `DecodeRLE(W, H, d, S)` (42_rle_decoder.md R180). -/
def decodeRLE (w h d : Nat) (bytes : List Byte) : DecodeStop × DecodeVars :=
  decodeRLELoop w d (bytes.length + 1) bytes
    { plane := List.replicate (ceilDiv (w * h) (8 / d)) 0, x := 0, y := (h : Int) - 1, n := 0, px := 0 }

/-- STATUS after a decode that stops so: DONE, or ERROR with its code (40_commands.md R102, 60_exceptions.md R204).
IGN keeps its value. -/
def DecodeStop.status (st : Status) : DecodeStop → Status
  | .done => { st with busy := false, done := true, error := false, errCode := .noError, state := .idle }
  | .truncation => { st with busy := false, done := false, error := true, errCode := .truncation, state := .idle }
  | .bounds => { st with busy := false, done := false, error := true, errCode := .bounds, state := .idle }

end Sys2Proof.Machine
end

