-- ==== Sys2Proof/Certificates/Slice0/Obligations.lean ====
section
/-! DEFINITION. The statements for the provers, from the numbered rules of spec/. In every statement that says
`t = { s with … }`, the fields not named are unchanged: that is the statement's frame. -/

open Sys2Proof Sys2Proof.Machine

/-! ### Steps, fetch and decoding -/

/-- When the engine stands at the start of a record, no other agent is scheduled or the host waits for BUSY = 0, and
the offered bytes begin with a whole record, the step is `exec` of that record, with its bytes taken from the source.
The granularity is the model's choice (log 7), and so is what `wait` does (log 20). -/
def Obligations.StepRunsTheDecodedRecord : Prop :=
  ∀ (s : State) (i : Instr) (rest : List Byte),
    (s.inputs = [] ∨ ∃ events, s.inputs = .wait :: events ∧ s.status.busy = true) → s.status.state = .hdrA →
    decodeRecord s.depth s.source.bytes = .instr i rest →
    step s = exec i { s with source := { s.source with bytes := rest } }

/-- In EXEC, with no other agent scheduled, with the engine's turn scheduled, or while the host waits for BUSY = 0
(log 20), the step is `exec` of the command of S.CMD (40_commands.md R106). -/
def Obligations.StepRunsTheAcceptedCommand : Prop :=
  ∀ (s : State) (rest : List Event),
    s.status.state = .exec → s.scratch.cmd ≠ 0 →
    (s.inputs = [] ∨ s.inputs = .wait :: rest ∧ s.status.busy = true →
      step s = exec (decodeCommand s.scratch.cmd) s) ∧
    (s.inputs = .engine :: rest → step s = exec (decodeCommand s.scratch.cmd) { s with inputs := rest })

/-- A scheduled engine turn is one engine step (42_rle_decoder.md R143). With no other agent scheduled, or while the
host waits for BUSY = 0 (log 20), the engine takes one step as well, unless it stands at the start of a record that is
wholly listed (log 7). -/
def Obligations.EngineTurnIsOneEngineStep : Prop :=
  ∀ (s : State) (rest : List Event),
    (s.inputs = .engine :: rest → step s = engineStep { s with inputs := rest }) ∧
    (s.inputs = [] ∨ s.inputs = .wait :: rest ∧ s.status.busy = true →
      ¬(s.status.state = .hdrA ∧ ∃ i bytes, decodeRecord s.depth s.source.bytes = .instr i bytes) →
      step s = engineStep s)

/-- Words written out from the spec's encodings stand for the instructions they stand for: a byte list for each record
kind (30_encoding.md R82, R92, vectors V-R1, V-L1, V-B1, V-D2, V-X1, V-X4) and a word for each of the sixteen command
codes (R90), some with bits [31:4] set (R89). -/
def Obligations.SpecWordsDecodeToTheirInstructions : Prop :=
  decodeRecord 8 [0x03, 0xAB, 0x00, 0x01] = .instr (.encodedRun 0x03 0xAB) [0x00, 0x01] ∧
  decodeRecord 8 [0x00, 0x00, 0x01, 0x22] = .instr .eol [0x01, 0x22] ∧
  decodeRecord 8 [0x00, 0x01, 0xFF, 0xFF] = .instr .eob [0xFF, 0xFF] ∧
  decodeRecord 8 [0x00, 0x02, 0x05, 0x09, 0x00, 0x01] = .instr (.delta 0x05 0x09) [0x00, 0x01] ∧
  decodeRecord 8 [0x00, 0x03, 0x11, 0x22, 0x33, 0x00, 0x07] = .instr (.absolute 0x03 [0x11, 0x22, 0x33, 0x00]) [0x07] ∧
  decodeRecord 4 [0x00, 0x03, 0xAB, 0xC0, 0x07] = .instr (.absolute 0x03 [0xAB, 0xC0]) [0x07] ∧
  decode 8 (.ctrl 0x00000010) = .instr .nop [] ∧
  decode 8 (.ctrl 0x00000001) = .instr .clear [] ∧
  decode 8 (.ctrl 0x00000012) = .instr .decode [] ∧
  decode 8 (.ctrl 0x00000003) = .instr .getIndex [] ∧
  decode 8 (.ctrl 0xFFFFFFF4) = .instr .setIndex [] ∧
  decode 8 (.ctrl 0x00000005) = .instr .reserved5 [] ∧
  decode 8 (.ctrl 0x00000006) = .instr .reserved6 [] ∧
  decode 8 (.ctrl 0x00000007) = .instr .reserved7 [] ∧
  decode 8 (.ctrl 0x00000008) = .instr .reserved8 [] ∧
  decode 8 (.ctrl 0x00000009) = .instr .reserved9 [] ∧
  decode 8 (.ctrl 0x0000000A) = .instr .reserved10 [] ∧
  decode 8 (.ctrl 0x0000000B) = .instr .reserved11 [] ∧
  decode 8 (.ctrl 0x0000000C) = .instr .reserved12 [] ∧
  decode 8 (.ctrl 0x0000000D) = .instr .reserved13 [] ∧
  decode 8 (.ctrl 0x0000000E) = .instr .reserved14 [] ∧
  decode 8 (.ctrl 0x0000000F) = .instr .reserved15 []

/-- DECODE AND ENCODE AGREE: for every well-formed instruction at every depth, a record's bytes followed by any
bytes decode to the record and exactly those bytes, and a command's word decodes to the command. -/
def Obligations.EveryEncodedInstructionDecodesToItself : Prop :=
  ∀ (depth : Nat) (i : Instr) (rest : List Byte), i.wf depth = true →
    match encode i with
    | .stream bytes => decodeRecord depth (bytes ++ rest) = .instr i rest
    | .ctrl word => decode depth (.ctrl word) = .instr i []

/-- Every decoding is that of one record only: what the decoder reads is well formed, and its bytes are those taken
from the stream. -/
def Obligations.DecodedRecordsEncodeToTheirBytes : Prop :=
  ∀ (depth : Nat) (bytes rest : List Byte) (i : Instr), decodeRecord depth bytes = .instr i rest →
    i.wf depth = true ∧ recordBytes i ++ rest = bytes ∧ (recordBytes i).length = recordLength depth i

/-- 30_encoding.md R82: the record kind of each of the 65536 headers, its total length, and the place of its extra
fields. -/
def Obligations.HeaderSelectsTheRecordKind : Prop :=
  ∀ (depth : Nat) (a b dx dy : Byte) (literal rest : List Byte),
    (a ≠ 0 → decodeRecord depth (a :: b :: rest) = .instr (.encodedRun a b) rest) ∧
    (a = 0 → b = 0 → decodeRecord depth (a :: b :: rest) = .instr .eol rest) ∧
    (a = 0 → b = 1 → decodeRecord depth (a :: b :: rest) = .instr .eob rest) ∧
    (a = 0 → b = 2 → decodeRecord depth (a :: b :: dx :: dy :: rest) = .instr (.delta dx dy) rest) ∧
    (a = 0 → 3 ≤ b.toNat → literal.length = paddedLength b.toNat depth →
      decodeRecord depth (a :: b :: (literal ++ rest)) = .instr (.absolute b literal) rest)

/-- 30_encoding.md R85: N(b, depth) = 2 * ceil(ceil(b * depth / 8) / 2), so N(b, 8) = b + (b mod 2) and
N(b, 4) = 2 * ceil(b / 4); N is even, at least ceil(b * depth / 8) and less than two bytes more, and the largest
absolute run has 256 bytes. -/
def Obligations.PaddedLengthOfAnAbsoluteRun : Prop :=
  (∀ b depth : Nat, paddedLength b depth = 2 * (((b * depth + 7) / 8 + 1) / 2)) ∧
  (∀ b : Nat, paddedLength b 8 = b + b % 2) ∧
  (∀ b : Nat, paddedLength b 4 = 2 * ((b + 3) / 4)) ∧
  (∀ b depth : Nat, paddedLength b depth % 2 = 0 ∧ (b * depth + 7) / 8 ≤ paddedLength b depth ∧
    paddedLength b depth < (b * depth + 7) / 8 + 2) ∧
  paddedLength 255 8 = 256 ∧
  (∀ b depth : Nat, b ≤ 255 → depth ≤ 8 → paddedLength b depth ≤ 256)

/-! ### Reset -/

/-- 10_state.md R47: what reset leaves in every register whose reset value the spec gives; the plane, LIT_BUF and the
datapath registers hold free draws (the form of the draws is the model's, logs 2 to 5); and CLEAR, DECODE, GET_INDEX
and SET_INDEX raise ValidationError then. -/
def Obligations.ResetLeavesTheSpecValues : Prop :=
  State.reset.regs = { depth := 0, mode := 0, width := 0, height := 0, pixX := 0, pixY := 0, pixData := 0 } ∧
  State.reset.counters = { curX := 0, curY := 0, bytesConsumed := 0, pixelsWritten := 0 } ∧
  State.reset.planeLen = 0 ∧
  State.reset.status =
    { busy := false, done := false, error := false, ign := false, errCode := .noError, state := .idle } ∧
  hostReadValue State.reset 0x00 = 0 ∧
  hostReadValue State.reset 0x04 = 0 ∧
  hostReadValue State.reset 0x34 = Config.planeCapacity ∧
  (∀ k, State.reset.planeRead k = Config.freePlaneByte State.reset.draw k) ∧
  (∀ k, State.reset.litRead k = Config.freeLitByte State.reset.draw k) ∧
  State.reset.scratch = Scratch.afterReset State.reset.draw ∧
  ∀ i ∈ [Instr.clear, .decode, .getIndex, .setIndex],
    exec i State.reset = .next { State.reset with
      status := { busy := false, done := false, error := true, ign := false, errCode := .validation, state := .idle } }

/-- 70_reset_and_hazards.md R230: the reset event, at any state, gives every register its value of 10_state.md R47
and abandons the command without DONE or ERROR. CAPACITY stays. The rest is the model's: the plane, LIT_BUF and the
datapath registers hold free draws of the next draw number (logs 2 to 5), and the source's offer, the events to come
and the host's read bus stay (log 11). -/
def Obligations.ResetEventRestoresTheResetValues : Prop :=
  ∀ (s : State) (rest : List Event), s.inputs = .reset :: rest →
    ∃ t, step s = .next t ∧ t.capacity = s.capacity ∧
      t.regs = { depth := 0, mode := 0, width := 0, height := 0, pixX := 0, pixY := 0, pixData := 0 } ∧
      t.counters = { curX := 0, curY := 0, bytesConsumed := 0, pixelsWritten := 0 } ∧
      t.planeLen = 0 ∧
      t.status = { busy := false, done := false, error := false, ign := false, errCode := .noError, state := .idle } ∧
      (∀ k, t.planeRead k = Config.freePlaneByte t.draw k) ∧
      (∀ k, t.litRead k = Config.freeLitByte t.draw k) ∧
      t.scratch = Scratch.afterReset t.draw ∧ t.draw = s.draw + 1 ∧
      t.source = s.source ∧ t.inputs = rest ∧ t.readData = s.readData

/-! ### The host's writes -/

/-- 40_commands.md R103: a CTRL write with CTRL[3:0] = 0 changes nothing, busy or not, and so does `exec` of NOP. -/
def Obligations.NopHasNoEffect : Prop :=
  (∀ s : State, exec .nop s = .next s) ∧
  ∀ (s : State) (addr data : Word) (rest : List Event),
    addr.toNat / 4 = 0 → data.toNat % 16 = 0 → s.inputs = .hostWrite addr data :: rest →
    step s = .next { s with inputs := rest }

/-- 40_commands.md R100: acceptance of a command while BUSY = 0; a CTRL write while BUSY = 1 is none. -/
def Obligations.CtrlWriteAcceptsACommand : Prop :=
  ∀ (s : State) (addr data : Word) (rest : List Event),
    addr.toNat / 4 = 0 → data.toNat % 16 ≠ 0 → s.inputs = .hostWrite addr data :: rest →
    (s.status.busy = false → step s = .next { s with
      inputs := rest, scratch := { s.scratch with cmd := BitVec.ofNat 4 data.toNat },
      status := { busy := true, done := false, error := false, ign := false, errCode := .noError, state := .exec } }) ∧
    (s.status.busy = true → step s = .next { s with inputs := rest, status := { s.status with ign := true } })

/-- 10_state.md R28 and R46, 20_memory.md R73: while BUSY = 1, a host write of CTRL with a command code, of CONFIG,
WIDTH, HEIGHT, PIX_X, PIX_Y or PIX_DATA (word addresses 0x00 and 0x08 to 0x1C), or of the plane window changes
nothing but IGN, which it sets; every other host write changes nothing. That a CTRL write with CMD = 0 is
one of the others is the model's reading (log 13). -/
def Obligations.BusyHostWritesOnlySetIgn : Prop :=
  ∀ (s : State) (addr data : Word) (rest : List Event),
    s.status.busy = true → s.inputs = .hostWrite addr data :: rest →
    (addr.toNat / 4 = 0 ∧ data.toNat % 16 ≠ 0 ∨ 2 ≤ addr.toNat / 4 ∧ addr.toNat / 4 ≤ 7 ∨
        0x4000 ≤ addr.toNat / 4 ∧ addr.toNat / 4 < 0x4000 + (s.capacity.toNat + 3) / 4 →
      step s = .next { s with inputs := rest, status := { s.status with ign := true } }) ∧
    (addr.toNat / 4 = 0 ∧ data.toNat % 16 = 0 ∨ addr.toNat / 4 = 1 ∨ 8 ≤ addr.toNat / 4 ∧ addr.toNat / 4 < 0x4000 ∨
        0x4000 + (s.capacity.toNat + 3) / 4 ≤ addr.toNat / 4 →
      step s = .next { s with inputs := rest })

/-- 10_state.md R30 to R34, R46: while BUSY = 0, a host write of CONFIG, WIDTH, HEIGHT, PIX_X, PIX_Y or PIX_DATA
stores the register's fields, legal or not, and changes nothing else. -/
def Obligations.IdleHostWritesStoreTheRegister : Prop :=
  ∀ (s : State) (addr data : Word) (rest : List Event),
    s.status.busy = false → s.inputs = .hostWrite addr data :: rest →
    (addr.toNat / 4 = 2 → step s = .next { s with inputs := rest, regs :=
      { s.regs with depth := BitVec.ofNat 5 data.toNat, mode := BitVec.ofNat 2 (data.toNat / 2 ^ 8) } }) ∧
    (addr.toNat / 4 = 3 → step s = .next { s with inputs := rest, regs := { s.regs with width := data } }) ∧
    (addr.toNat / 4 = 4 → step s = .next { s with inputs := rest, regs := { s.regs with height := data } }) ∧
    (addr.toNat / 4 = 5 → step s = .next { s with inputs := rest, regs := { s.regs with pixX := data } }) ∧
    (addr.toNat / 4 = 6 → step s = .next { s with inputs := rest, regs := { s.regs with pixY := data } }) ∧
    (addr.toNat / 4 = 7 → step s = .next { s with inputs := rest, regs :=
      { s.regs with pixData := BitVec.ofNat 8 data.toNat } })

/-- 10_state.md R41, R46, 20_memory.md R61: a host write of a read-only register (STATUS, CURSOR_X to CAPACITY), of a
reserved offset or outside both windows changes nothing, not even IGN, busy or not. -/
def Obligations.ReadOnlyAndUnmappedWritesAreIgnored : Prop :=
  ∀ (s : State) (addr data : Word) (rest : List Event),
    s.inputs = .hostWrite addr data :: rest →
    (addr.toNat / 4 = 1 ∨ 8 ≤ addr.toNat / 4 ∧ addr.toNat / 4 < 0x4000 ∨
      0x4000 + (s.capacity.toNat + 3) / 4 ≤ addr.toNat / 4) →
    step s = .next { s with inputs := rest }

/-- 20_memory.md R62, R61: while BUSY = 0, a host write of word k of the plane window stores its four bytes,
little-endian, those at or above PLANE_CAPACITY excepted, and changes no other byte and nothing else. -/
def Obligations.PlaneWindowWriteStoresFourBytes : Prop :=
  ∀ (s : State) (addr data : Word) (rest : List Event) (k : Nat),
    s.status.busy = false → s.inputs = .hostWrite addr data :: rest →
    addr.toNat / 4 = 0x4000 + k → 4 * k < s.capacity.toNat →
    ∃ t, step s = .next t ∧ t = { s with inputs := rest, plane := t.plane } ∧
      (∀ j, j < 4 → 4 * k + j < s.capacity.toNat → t.planeRead (4 * k + j) = data.extractLsb' (8 * j) 8) ∧
      (∀ n, n < 4 * k ∨ 4 * k + 4 ≤ n ∨ s.capacity.toNat ≤ n → t.planeRead n = s.planeRead n)

/-! ### The host's reads -/

/-- 10_state.md R22 to R41, 20_memory.md R65: what a host read of the register window returns at every word address,
and that reading changes nothing of the block, busy or not (R46; of PLANE_LEN during a decode: log 26). -/
def Obligations.RegisterReadsReturnTheRegisters : Prop :=
  ∀ (s : State) (addr : Word) (rest : List Event), s.inputs = .hostRead addr :: rest → addr.toNat < 0x10000 →
    step s = .next { s with inputs := rest, readData :=
      if addr.toNat / 4 = 1 then s.status.word
      else if addr.toNat / 4 = 2 then BitVec.ofNat 32 (s.regs.depth.toNat + 2 ^ 8 * s.regs.mode.toNat)
      else if addr.toNat / 4 = 3 then s.regs.width
      else if addr.toNat / 4 = 4 then s.regs.height
      else if addr.toNat / 4 = 5 then s.regs.pixX
      else if addr.toNat / 4 = 6 then s.regs.pixY
      else if addr.toNat / 4 = 7 then BitVec.ofNat 32 s.regs.pixData.toNat
      else if addr.toNat / 4 = 8 then s.counters.curX
      else if addr.toNat / 4 = 9 then s.counters.curY
      else if addr.toNat / 4 = 10 then s.counters.bytesConsumed
      else if addr.toNat / 4 = 11 then s.counters.pixelsWritten
      else if addr.toNat / 4 = 12 then s.planeLen
      else if addr.toNat / 4 = 13 then s.capacity
      else 0 }

/-- 10_state.md R24, R29, 60_exceptions.md R200: the bits of STATUS and the codes of STATE and ERR_CODE. -/
def Obligations.StatusWordHasTheSpecFields : Prop :=
  ∀ st : Status,
    st.word.getLsbD 0 = st.busy ∧ st.word.getLsbD 1 = st.done ∧ st.word.getLsbD 2 = st.error ∧
    st.word.getLsbD 3 = st.ign ∧
    st.word.extractLsb' 4 4 = (match st.errCode with
      | .noError => 0 | .validation => 1 | .truncation => 2 | .bounds => 3 | .illegalCommand => 4) ∧
    st.word.extractLsb' 8 4 = (match st.state with
      | .idle => 0 | .exec => 1 | .hdrA => 2 | .hdrB => 3 | .run => 4 | .deltaX => 5 | .deltaY => 6
      | .absRead => 7 | .absEmit => 8) ∧
    st.word.extractLsb' 12 20 = 0

/-- 20_memory.md R62, R73: a host read of word k of the plane window returns the four bytes, little-endian, with 0 for
bytes at or above PLANE_CAPACITY, while BUSY = 0; it returns 0 while BUSY = 1; and outside both windows it returns 0
(R61). -/
def Obligations.PlaneWindowReadsAreLittleEndian : Prop :=
  ∀ (s : State) (addr : Word) (rest : List Event) (k : Nat),
    s.inputs = .hostRead addr :: rest → addr.toNat / 4 = 0x4000 + k →
    ∃ v : Word, step s = .next { s with inputs := rest, readData := v } ∧
      (s.status.busy = true → v = 0) ∧
      (s.capacity.toNat ≤ 4 * k → v = 0) ∧
      (s.status.busy = false → ∀ j, j < 4 →
        v.extractLsb' (8 * j) 8 = if 4 * k + j < s.capacity.toNat then s.planeRead (4 * k + j) else 0)

/-! ### Commands -/

/-- 40_commands.md R101, 60_exceptions.md R201: the configuration check passes exactly the legal configurations, and
gives the exact length ceil(W * H / ppb). -/
def Obligations.ConfigCheckPassesExactlyLegalConfigurations : Prop :=
  ∀ (r : HostRegs) (capacity : Word) (len : Nat),
    checkConfig r capacity = .legal len ↔
      LegalConfig r capacity ∧ len = (r.width.toNat * r.height.toNat + 8 / r.depth.toNat - 1) / (8 / r.depth.toNat)

/-- 60_exceptions.md R201, R204: with an illegal configuration, CLEAR, DECODE, GET_INDEX and SET_INDEX raise
ValidationError and change nothing but STATUS. -/
def Obligations.IllegalConfigurationRaisesValidationError : Prop :=
  ∀ (i : Instr) (s : State), i ∈ [Instr.clear, .decode, .getIndex, .setIndex] → ¬LegalConfig s.regs s.capacity →
    exec i s = .next { s with status :=
      { s.status with busy := false, error := true, errCode := .validation, state := .idle } }

/-- 40_commands.md R104: CLEAR with a legal configuration completes: the image's bytes are 0 and so is every pixel,
every other byte is unchanged, PLANE_LEN is the image's length, STATUS is that of Finish, and nothing else changes.
With an illegal one it raises ValidationError and changes nothing but STATUS. -/
def Obligations.ClearZeroFillsTheImage : Prop :=
  ∀ s : State,
    (¬LegalConfig s.regs s.capacity → exec .clear s = .next { s with status :=
      { s.status with busy := false, error := true, errCode := .validation, state := .idle } }) ∧
    (LegalConfig s.regs s.capacity → ∃ t, exec .clear s = .next t ∧
      t = { s with plane := t.plane, planeLen := BitVec.ofNat 32 (imageBytes s.regs),
                   status := { s.status with busy := false, done := true, state := .idle } } ∧
      t.planeLen.toNat = imageBytes s.regs ∧
      (∀ k, k < imageBytes s.regs → t.planeRead k = 0) ∧
      (∀ x y, x < s.imageWidth → y < s.imageHeight → t.pixel x y = 0) ∧
      (∀ k, imageBytes s.regs ≤ k → t.planeRead k = s.planeRead k))

/-- 42_rle_decoder.md R140, R141: DECODE with a legal configuration and MODE != 0 starts the decode: the image's bytes
are 0, the cursor is (0, H - 1), the counters are 0, the engine goes to HDR_A; no byte is read. That PLANE_LEN holds
the new length from this step on, not only once BUSY = 0, is the model's reading (log 26). -/
def Obligations.DecodeStartsAtTheBottomLeft : Prop :=
  ∀ s : State, LegalDecodeConfig s.regs s.capacity →
    ∃ t, exec .decode s = .next t ∧
      t = { s with plane := t.plane, planeLen := BitVec.ofNat 32 (imageBytes s.regs),
                   counters := { curX := 0, curY := s.regs.height - 1, bytesConsumed := 0, pixelsWritten := 0 },
                   status := { s.status with state := .hdrA } } ∧
      t.counters.curY.toInt = (s.imageHeight : Int) - 1 ∧
      (∀ k, k < imageBytes s.regs → t.planeRead k = 0) ∧
      (∀ k, imageBytes s.regs ≤ k → t.planeRead k = s.planeRead k)

/-- 42_rle_decoder.md R142: DECODE with MODE = 0 raises ValidationError; the plane and the counters stay, and
PLANE_LEN holds the value just validated. A DECODE that goes on has MODE 1 at depth 8 or MODE 2 at depth 4. -/
def Obligations.DecodeWithoutCompressionRaisesValidationError : Prop :=
  ∀ s : State, LegalConfig s.regs s.capacity →
    (s.regs.mode.toNat = 0 →
      exec .decode s = .next { s with planeLen := BitVec.ofNat 32 (imageBytes s.regs), status :=
        { s.status with busy := false, error := true, errCode := .validation, state := .idle } }) ∧
    (s.regs.mode.toNat ≠ 0 →
      (s.regs.mode.toNat = 1 ∧ s.depth = 8 ∨ s.regs.mode.toNat = 2 ∧ s.depth = 4) ∧
      ∃ t, exec .decode s = .next t ∧ t.status = { s.status with state := .hdrA })

/-- 41_packing.md R125: GET_INDEX inside the image completes: PIX_DATA is the pixel's index, PLANE_LEN the image's
length, and nothing else changes but STATUS. -/
def Obligations.GetIndexReadsThePixel : Prop :=
  ∀ s : State, LegalConfig s.regs s.capacity →
    s.regs.pixX.toNat < s.imageWidth → s.regs.pixY.toNat < s.imageHeight →
    ∀ p index, p = s.regs.pixY.toNat * s.imageWidth + s.regs.pixX.toNat →
      index = extractIndex (s.planeRead (p / (8 / s.depth))) (p % (8 / s.depth)) s.depth →
      exec .getIndex s = .next { s with
        planeLen := BitVec.ofNat 32 (imageBytes s.regs), regs := { s.regs with pixData := index },
        status := { s.status with busy := false, done := true, state := .idle } }

/-- 41_packing.md R126: SET_INDEX inside the image completes: the pixel's slot holds the low bits of PIX_DATA, the
other bits of its byte, every other pixel of the image and every other plane byte are unchanged, PLANE_LEN is the
image's length, and nothing else changes but STATUS. -/
def Obligations.SetIndexWritesThePixel : Prop :=
  ∀ s : State, LegalConfig s.regs s.capacity →
    s.regs.pixX.toNat < s.imageWidth → s.regs.pixY.toNat < s.imageHeight →
    ∃ t, exec .setIndex s = .next t ∧
      t = { s with plane := t.plane, planeLen := BitVec.ofNat 32 (imageBytes s.regs),
                   status := { s.status with busy := false, done := true, state := .idle } } ∧
      t.pixel s.regs.pixX.toNat s.regs.pixY.toNat = BitVec.ofNat 8 (s.regs.pixData.toNat % 2 ^ s.depth) ∧
      (∀ x y, x < s.imageWidth → y < s.imageHeight → ¬(x = s.regs.pixX.toNat ∧ y = s.regs.pixY.toNat) →
        t.pixel x y = s.pixel x y) ∧
      (∀ k, k = pixelByte s.depth s.imageWidth s.regs.pixX.toNat s.regs.pixY.toNat →
        t.planeRead k = insertIndex (s.planeRead k)
          (pixelSlot s.depth s.imageWidth s.regs.pixX.toNat s.regs.pixY.toNat) s.depth s.regs.pixData) ∧
      (∀ k, k ≠ pixelByte s.depth s.imageWidth s.regs.pixX.toNat s.regs.pixY.toNat →
        t.planeRead k = s.planeRead k)

/-- 41_packing.md R124 to R126, 60_exceptions.md R203: outside the image, GET_INDEX and SET_INDEX raise BoundsError;
PIX_DATA, the plane and everything else but STATUS and PLANE_LEN are unchanged. That PLANE_LEN keeps the value just
validated is the model's reading of R39 and R101 beside R204 (log 12). -/
def Obligations.IndexOutsideTheImageRaisesBoundsError : Prop :=
  ∀ (i : Instr) (s : State), i ∈ [Instr.getIndex, .setIndex] → LegalConfig s.regs s.capacity →
    (s.imageWidth ≤ s.regs.pixX.toNat ∨ s.imageHeight ≤ s.regs.pixY.toNat) →
    exec i s = .next { s with
      planeLen := BitVec.ofNat 32 (imageBytes s.regs),
      status := { s.status with busy := false, error := true, errCode := .bounds, state := .idle } }

/-- 40_commands.md R105: each reserved command raises IllegalCommand, whatever the configuration, and no register but
STATUS changes. -/
def Obligations.ReservedCommandsRaiseIllegalCommand : Prop :=
  ∀ (i : Instr) (s : State),
    i ∈ [Instr.reserved5, .reserved6, .reserved7, .reserved8, .reserved9, .reserved10, .reserved11, .reserved12,
      .reserved13, .reserved14, .reserved15] →
    exec i s = .next { s with status :=
      { s.status with busy := false, error := true, errCode := .illegalCommand, state := .idle } }

/-! ### The packing unit -/

/-- 41_packing.md R120, R123: Extract gives the bits [8 - d*s - 1 : 8 - d*(s+1)] of the byte, zero-extended, so slot 0
is the most significant one. -/
def Obligations.ExtractReadsTheLane : Prop :=
  ∀ (byte : Byte) (d slot j : Nat), d ∈ [1, 2, 4, 8] → slot < 8 / d →
    (extractIndex byte slot d).getLsbD j = (decide (j < d) && byte.getLsbD (8 - d * (slot + 1) + j))

/-- 41_packing.md R128: the round trip of Extract and Insert, the independence of the slots, and that writing every
slot of a byte fixes the byte. -/
def Obligations.InsertThenExtractRoundTrip : Prop :=
  (∀ (byte v : Byte) (d slot : Nat), d ∈ [1, 2, 4, 8] → slot < 8 / d →
    extractIndex (insertIndex byte slot d v) slot d = BitVec.ofNat 8 (v.toNat % 2 ^ d)) ∧
  (∀ (byte v : Byte) (d slot other : Nat), d ∈ [1, 2, 4, 8] → slot < 8 / d → other < 8 / d → other ≠ slot →
    extractIndex (insertIndex byte slot d v) other d = extractIndex byte other d) ∧
  (∀ (byte byte' : Byte) (v : Nat → Byte) (d : Nat), d ∈ [1, 2, 4, 8] →
    (List.range (8 / d)).foldl (fun b slot => insertIndex b slot d (v slot)) byte =
      (List.range (8 / d)).foldl (fun b slot => insertIndex b slot d (v slot)) byte')

/-- 41_packing.md R127: at depth 8 ppb = 1, the slot and the shift are 0 and the mask is 0xFF; Extract returns the byte
and Insert replaces it, and pixel (x, y) is plane byte y*W + x. -/
def Obligations.DepthEightPixelsAreBytes : Prop :=
  ∀ (s : State) (byte v : Byte) (x y : Nat), s.depth = 8 →
    pixelsPerByte 8 = 1 ∧ pixelSlot 8 s.imageWidth x y = 0 ∧ slotShift 0 8 = 0 ∧ indexMask 8 = 0xFF ∧
    extractIndex byte 0 8 = byte ∧ insertIndex byte 0 8 v = v ∧ s.pixel x y = s.planeRead (y * s.imageWidth + x)

/-- 41_packing.md R122: with a legal configuration, a pixel inside the image lies in a byte of the image, in one of its
slots, and no two pixels share a slot of a byte. -/
def Obligations.PixelsHaveTheirOwnSlotInTheImage : Prop :=
  ∀ (r : HostRegs) (capacity : Word) (x y x' y' : Nat), LegalConfig r capacity →
    x < r.width.toNat → y < r.height.toNat → x' < r.width.toNat → y' < r.height.toNat →
    pixelByte r.depth.toNat r.width.toNat x y < imageBytes r ∧
    pixelSlot r.depth.toNat r.width.toNat x y < 8 / r.depth.toNat ∧
    (pixelByte r.depth.toNat r.width.toNat x y = pixelByte r.depth.toNat r.width.toNat x' y' →
      pixelSlot r.depth.toNat r.width.toNat x y = pixelSlot r.depth.toNat r.width.toNat x' y' → x = x' ∧ y = y')

/-! ### The engine's steps -/

/-- 20_memory.md R66: what the source gives to a read: the next listed byte; then nothing, EOF, or the next byte of a
stream that never ends (the two forms of such a stream are the model's, log 25). While it offers neither a byte nor
EOF, a reading state has no step. -/
def Obligations.EngineHasNoStepWithoutByteOrEof : Prop :=
  (∀ (b : Byte) (bs : List Byte) (rest : SourceRest),
    Source.next { bytes := b :: bs, rest := rest } = some (b, { bytes := bs, rest := rest })) ∧
  (∀ src : Source, src.next = none ↔ src.bytes = [] ∧ (src.rest = .nothing ∨ src.rest = .eof)) ∧
  (∀ (b : Byte) (bs : List Byte),
    Source.next { bytes := [], rest := .cycle b bs } = some (b, { bytes := bs, rest := .cycle b bs })) ∧
  (∀ stream pos : Nat, Source.next { bytes := [], rest := .free stream pos } =
    some (Config.freeStreamByte stream pos, { bytes := [], rest := .free stream (pos + 1) })) ∧
  ∀ s : State, s.source = { bytes := [], rest := .nothing } →
    s.status.state ∈ [EngineState.hdrA, .hdrB, .deltaX, .deltaY, .absRead] →
    engineStep s = .fault .awaitingSource ∧ (s.inputs = [] → step s = .fault .awaitingSource)

/-- 20_memory.md R66, R68, 30_encoding.md R92 (`SRC`, `WAIT`): the events of the source, and `wait`. A byte, EOF or a
stream that never ends comes after what the source offers; after EOF, or after such a stream, nothing more comes; a new
stream begins only while no job reads the source. `wait` is over when BUSY = 0, and until then the engine takes its
turn. The form of the events is the model's (logs 10, 20, 25). -/
def Obligations.SourceEventsChangeTheOfferAndWaitLetsTheEngineRun : Prop :=
  ∀ (s : State) (events : List Event),
    (∀ b, s.inputs = .sourceByte b :: events →
      step s = .next { s with inputs := events, source :=
        if s.source.rest = .nothing then { bytes := s.source.bytes ++ [b], rest := .nothing } else s.source }) ∧
    (s.inputs = .sourceEof :: events →
      step s = .next { s with inputs := events, source :=
        if s.source.rest = .nothing then { bytes := s.source.bytes, rest := .eof } else s.source }) ∧
    (∀ b bs, s.inputs = .sourceCycle b bs :: events →
      step s = .next { s with inputs := events, source :=
        if s.source.rest = .nothing then { bytes := s.source.bytes, rest := .cycle b bs } else s.source }) ∧
    (∀ stream, s.inputs = .sourceFree stream :: events →
      step s = .next { s with inputs := events, source :=
        if s.source.rest = .nothing then { bytes := s.source.bytes, rest := .free stream 0 } else s.source }) ∧
    (s.inputs = .sourceStart :: events →
      step s = .next { s with inputs := events, source :=
        if s.status.state = .idle ∨ s.status.state = .exec then { bytes := [], rest := .nothing } else s.source }) ∧
    (s.inputs = .wait :: events → s.status.busy = false → step s = .next { s with inputs := events }) ∧
    (s.inputs = .wait :: events → s.status.busy = true →
      step s = engineTurn s ∧ ∀ t, step s = .next t → t.inputs = s.inputs)

/-- 42_rle_decoder.md R146, 60_exceptions.md R202, R206: EOF in a reading state raises TruncationError, counts no byte
and changes nothing but STATUS. -/
def Obligations.EofInAReadingStateRaisesTruncationError : Prop :=
  ∀ s : State, s.source = { bytes := [], rest := .eof } →
    s.status.state ∈ [EngineState.hdrA, .hdrB, .deltaX, .deltaY, .absRead] →
    engineStep s = .next { s with status :=
      { s.status with busy := false, error := true, errCode := .truncation, state := .idle } }

/-- 42_rle_decoder.md R145, R155, R156: the steps of HDR_A, DELTA_X and DELTA_Y: on a byte, at EOF, and while the
source offers neither. -/
def Obligations.HeaderAndDeltaStepsTakeTheirByte : Prop :=
  ∀ s : State,
    (∀ (r : Byte) (src : Source), s.source.next = some (r, src) →
      (s.status.state = .hdrA → engineStep s = .next { s with
        source := src,
        counters := { s.counters with bytesConsumed := s.counters.bytesConsumed + 1 },
        scratch := { s.scratch with a := r }, status := { s.status with state := .hdrB } }) ∧
      (s.status.state = .deltaX → engineStep s = .next { s with
        source := src,
        counters := { s.counters with bytesConsumed := s.counters.bytesConsumed + 1 },
        scratch := { s.scratch with dx := r }, status := { s.status with state := .deltaY } }) ∧
      (s.status.state = .deltaY → engineStep s = .next { s with
        source := src,
        counters := { s.counters with
          bytesConsumed := s.counters.bytesConsumed + 1,
          curX := BitVec.ofNat 32 (min (s.counters.curX.toNat + s.scratch.dx.toNat) s.imageWidth),
          curY := BitVec.ofInt 32 (max (s.counters.curY.toInt - r.toNat) (-1)) },
        status := { s.status with state := .hdrA } })) ∧
    (s.source.next = none → s.status.state ∈ [EngineState.hdrA, .deltaX, .deltaY] →
      (s.source.rest = .eof → engineStep s = .next { s with status :=
        { s.status with busy := false, error := true, errCode := .truncation, state := .idle } }) ∧
      (s.source.rest = .nothing → engineStep s = .fault .awaitingSource))

/-- 42_rle_decoder.md R147: the step of HDR_B on a byte, for each record kind, and at EOF. -/
def Obligations.HeaderByteSelectsTheNextState : Prop :=
  ∀ s : State, s.status.state = .hdrB →
    (s.source = { bytes := [], rest := .eof } → engineStep s = .next { s with status :=
      { s.status with busy := false, error := true, errCode := .truncation, state := .idle } }) ∧
    ∀ (r : Byte) (src : Source), s.source.next = some (r, src) →
      ∃ t, engineStep s = .next t ∧
        t = { s with source := src, counters := t.counters, scratch := t.scratch,
                     status := t.status } ∧
        t.counters.bytesConsumed = s.counters.bytesConsumed + 1 ∧
        t.counters.pixelsWritten = s.counters.pixelsWritten ∧
        (¬(s.scratch.a = 0 ∧ r = 0) → t.counters.curX = s.counters.curX ∧ t.counters.curY = s.counters.curY) ∧
        (s.scratch.a ≠ 0 → t.scratch = { s.scratch with b := r, left := s.scratch.a, i := 0 } ∧
          t.status = { s.status with state := .run }) ∧
        (s.scratch.a = 0 → r = 0 → t.scratch = { s.scratch with b := r } ∧
          t.status = { s.status with state := .hdrA } ∧
          t.counters.curX = 0 ∧ t.counters.curY = BitVec.ofInt 32 (max (s.counters.curY.toInt - 1) (-1))) ∧
        (s.scratch.a = 0 → r = 1 → t.scratch = { s.scratch with b := r } ∧
          t.status = { s.status with busy := false, done := true, state := .idle }) ∧
        (s.scratch.a = 0 → r = 2 → t.scratch = { s.scratch with b := r } ∧
          t.status = { s.status with state := .deltaX }) ∧
        (s.scratch.a = 0 → 3 ≤ r.toNat → t.scratch = { s.scratch with
            b := r, count := r, need := BitVec.ofNat 9 (paddedLength r.toNat s.depth), fill := 0 } ∧
          t.status = { s.status with state := .absRead })

/-- 42_rle_decoder.md R172: the step of ABS_READ on a byte and at EOF. Neither writes the plane. -/
def Obligations.LiteralByteGoesToTheLiteralBuffer : Prop :=
  ∀ s : State, s.status.state = .absRead →
    s.scratch.fill.toNat < s.scratch.need.toNat → s.scratch.need.toNat ≤ 256 →
    (s.source = { bytes := [], rest := .eof } → engineStep s = .next { s with status :=
      { s.status with busy := false, error := true, errCode := .truncation, state := .idle } }) ∧
    ∀ (r : Byte) (src : Source), s.source.next = some (r, src) →
      ∃ t, engineStep s = .next t ∧
        t = { s with source := src, litBuf := t.litBuf,
                     counters := { s.counters with bytesConsumed := s.counters.bytesConsumed + 1 },
                     scratch := t.scratch, status := t.status } ∧
        t.litRead s.scratch.fill.toNat = r ∧
        (∀ k, k ≠ s.scratch.fill.toNat → t.litRead k = s.litRead k) ∧
        (s.scratch.fill.toNat + 1 = s.scratch.need.toNat →
          t.scratch = { s.scratch with fill := s.scratch.need, i := 0 } ∧
          t.status = { s.status with state := .absEmit }) ∧
        (s.scratch.fill.toNat + 1 < s.scratch.need.toNat →
          t.scratch = { s.scratch with fill := s.scratch.fill + 1 } ∧ t.status = s.status)

/-- 42_rle_decoder.md R151, R160, R173: a step of RUN or ABS_EMIT with the cursor inside a legal image writes one
pixel, the index of slot `S.I mod ppb` of S.B, or of literal byte `S.I div ppb`, and keeps every other bit; x
advances, PIXELS_WRITTEN grows, and the last pixel of the record leads to HDR_A. With the cursor outside the image it raises BoundsError and changes
nothing but STATUS. -/
def Obligations.PixelStepWritesOnePixel : Prop :=
  ∀ s : State, (s.status.state = .run ∨ s.status.state = .absEmit) →
    ((s.imageWidth ≤ s.counters.curX.toNat ∨ s.counters.curY.toInt < 0 ∨ s.imageHeight ≤ s.counters.curY.toInt) →
      engineStep s = .next { s with status :=
        { s.status with busy := false, error := true, errCode := .bounds, state := .idle } }) ∧
    (LegalConfig s.regs s.capacity → s.counters.curX.toNat < s.imageWidth →
      0 ≤ s.counters.curY.toInt → s.counters.curY.toInt < s.imageHeight →
      ∃ t, engineStep s = .next t ∧
        t = { s with plane := t.plane, scratch := t.scratch, status := t.status,
                     counters := { s.counters with
                       curX := s.counters.curX + 1, pixelsWritten := s.counters.pixelsWritten + 1 } } ∧
        t.pixel s.counters.curX.toNat s.counters.curY.toInt.toNat =
          extractIndex
            (if s.status.state = .run then s.scratch.b else s.litRead (s.scratch.i.toNat / (8 / s.depth)))
            (s.scratch.i.toNat % (8 / s.depth)) s.depth ∧
        (∀ x y, x < s.imageWidth → y < s.imageHeight →
          ¬(x = s.counters.curX.toNat ∧ y = s.counters.curY.toInt.toNat) → t.pixel x y = s.pixel x y) ∧
        (∀ k, t.planeRead k = paintedByte s 1
          (fun _ => extractIndex
            (if s.status.state = .run then s.scratch.b else s.litRead (s.scratch.i.toNat / (8 / s.depth)))
            (s.scratch.i.toNat % (8 / s.depth)) s.depth) k) ∧
        (∀ k, k ≠ pixelByte s.depth s.imageWidth s.counters.curX.toNat s.counters.curY.toInt.toNat →
          t.planeRead k = s.planeRead k) ∧
        (s.status.state = .run →
          t.scratch = { s.scratch with i := s.scratch.i + 1, left := s.scratch.left - 1 } ∧
          t.status = { s.status with state := if s.scratch.left = 1 then .hdrA else .run }) ∧
        (s.status.state = .absEmit →
          t.scratch = { s.scratch with i := s.scratch.i + 1 } ∧
          t.status = { s.status with state := if s.scratch.i + 1 = s.scratch.count then .hdrA else .absEmit }))

/-- 42_rle_decoder.md R184, R185: the decode writes pixels in the order of writing (bottom row first, left to right)
and none twice: while a decode goes on, no step moves the cursor back in that order, and a step that writes a pixel
moves it past that pixel by exactly one. -/
def Obligations.DecodeWritesPixelsInOrderAndNoneTwice : Prop :=
  ∀ s t : State, Inv s → jobRuns s = true → engineStep s = .next t → jobRuns t = true →
    pixelsBefore s ≤ pixelsBefore t ∧
    ((∃ k, t.planeRead k ≠ s.planeRead k) ∨ t.counters.pixelsWritten ≠ s.counters.pixelsWritten →
      (s.status.state = .run ∨ s.status.state = .absEmit) ∧
      pixelsBefore s = (s.imageHeight - 1 - s.counters.curY.toInt.toNat) * s.imageWidth + s.counters.curX.toNat ∧
      pixelsBefore t = pixelsBefore s + 1)

/-- 42_rle_decoder.md R161: saturation commutes with the moves. If the cursor registers hold the saturated value of an
unbounded cursor (tx, ty), they still do after AdvX, DecY and the end of a line (x to 0, y down by one), whatever the
unbounded cursor is; and with ty <= H - 1 a pixel write at the cursor is in bounds exactly when the unbounded cursor is
inside the image. -/
def Obligations.CursorMovesSaturateTheUnboundedCursor : Prop :=
  ∀ (s : State) (tx n : Nat) (ty : Int),
    s.counters.curX.toNat = min tx s.imageWidth → s.counters.curY.toInt = max ty (-1) →
    ((advX n s).counters.curX.toNat = min (tx + n) s.imageWidth ∧ (advX n s).counters.curY = s.counters.curY) ∧
    ((decY n s).counters.curY.toInt = max (ty - n) (-1) ∧ (decY n s).counters.curX = s.counters.curX) ∧
    ((lineEnd s).counters.curX.toNat = min 0 s.imageWidth ∧ (lineEnd s).counters.curY.toInt = max (ty - 1) (-1)) ∧
    (ty < s.imageHeight →
      (outsideImage s s.counters.curX.toNat s.counters.curY.toInt = false ↔
        tx < s.imageWidth ∧ 0 ≤ ty ∧ ty < s.imageHeight))

/-! ### Records -/

/-- 42_rle_decoder.md R152: EOL sets x to 0 and moves y down by one, saturated at -1; two bytes are read; no pixel is
written. -/
def Obligations.EolMovesToTheNextScanline : Prop :=
  ∀ s : State, exec .eol s = .next { s with
    counters := { s.counters with
      curX := 0, curY := BitVec.ofInt 32 (max (s.counters.curY.toInt - 1) (-1)),
      bytesConsumed := s.counters.bytesConsumed + 2 },
    scratch := { s.scratch with a := 0, b := 0 }, status := { s.status with state := .hdrA } }

/-- 42_rle_decoder.md R153: EOB ends the decode with DONE; two bytes are read. -/
def Obligations.EobEndsTheDecode : Prop :=
  ∀ s : State, exec .eob s = .next { s with
    counters := { s.counters with bytesConsumed := s.counters.bytesConsumed + 2 },
    scratch := { s.scratch with a := 0, b := 1 },
    status := { s.status with busy := false, done := true, state := .idle } }

/-- 42_rle_decoder.md R154: DELTA moves the cursor to (x + dx, y - dy), saturated, without writing a pixel; four bytes
are read. -/
def Obligations.DeltaMovesTheCursor : Prop :=
  ∀ (dx dy : Byte) (s : State), exec (.delta dx dy) s = .next { s with
    counters := { s.counters with
      curX := BitVec.ofNat 32 (min (s.counters.curX.toNat + dx.toNat) s.imageWidth),
      curY := BitVec.ofInt 32 (max (s.counters.curY.toInt - dy.toNat) (-1)),
      bytesConsumed := s.counters.bytesConsumed + 4 },
    scratch := { s.scratch with a := 0, b := 2, dx := dx }, status := { s.status with state := .hdrA } }

/-- 42_rle_decoder.md R150: an encoded run that fits its row completes: pixel i of the run is the index of slot
`i mod ppb` of the pattern, at x + i; every other bit of the plane, so every other pixel of the image and every plane
byte without a pixel of the run, is unchanged; the cursor moves by `a`, two bytes are read, `a` pixels are counted,
and the engine goes to HDR_A. -/
def Obligations.EncodedRunWritesItsPixels : Prop :=
  ∀ (a b : Byte) (s : State), a ≠ 0 → LegalConfig s.regs s.capacity →
    0 ≤ s.counters.curY.toInt → s.counters.curY.toInt < s.imageHeight →
    s.counters.curX.toNat + a.toNat ≤ s.imageWidth →
    ∃ t, exec (.encodedRun a b) s = .next t ∧
      t = { s with plane := t.plane,
                   scratch := { s.scratch with a := a, b := b, left := 0, i := a },
                   counters := { s.counters with
                     curX := s.counters.curX + BitVec.ofNat 32 a.toNat,
                     bytesConsumed := s.counters.bytesConsumed + 2,
                     pixelsWritten := s.counters.pixelsWritten + BitVec.ofNat 32 a.toNat },
                   status := { s.status with state := .hdrA } } ∧
      (∀ i, i < a.toNat → t.pixel (s.counters.curX.toNat + i) s.counters.curY.toInt.toNat =
        extractIndex b (i % (8 / s.depth)) s.depth) ∧
      (∀ x y, x < s.imageWidth → y < s.imageHeight →
        ¬(y = s.counters.curY.toInt.toNat ∧ s.counters.curX.toNat ≤ x ∧ x < s.counters.curX.toNat + a.toNat) →
        t.pixel x y = s.pixel x y) ∧
      (∀ k, t.planeRead k = paintedByte s a.toNat (fun i => extractIndex b (i % (8 / s.depth)) s.depth) k) ∧
      (∀ k, (∀ i, i < a.toNat →
          k ≠ pixelByte s.depth s.imageWidth (s.counters.curX.toNat + i) s.counters.curY.toInt.toNat) →
        t.planeRead k = s.planeRead k)

/-- 42_rle_decoder.md R150, R160, 60_exceptions.md R203: an encoded run that does not fit its row writes the pixels up
to the row's end, and no other bit of the plane, and then raises BoundsError at x = W; below row 0 it writes none. -/
def Obligations.EncodedRunOverrunRaisesBoundsError : Prop :=
  ∀ (a b : Byte) (s : State), a ≠ 0 → LegalConfig s.regs s.capacity → s.counters.curX.toNat ≤ s.imageWidth →
    (0 ≤ s.counters.curY.toInt → s.counters.curY.toInt < s.imageHeight →
      s.imageWidth < s.counters.curX.toNat + a.toNat →
      ∃ t, exec (.encodedRun a b) s = .next t ∧
        t = { s with plane := t.plane,
                     scratch := { s.scratch with
                       a := a, b := b, i := BitVec.ofNat 8 (s.imageWidth - s.counters.curX.toNat),
                       left := BitVec.ofNat 8 (a.toNat - (s.imageWidth - s.counters.curX.toNat)) },
                     counters := { s.counters with
                       curX := s.regs.width, bytesConsumed := s.counters.bytesConsumed + 2,
                       pixelsWritten := s.counters.pixelsWritten +
                         BitVec.ofNat 32 (s.imageWidth - s.counters.curX.toNat) },
                     status := { s.status with busy := false, error := true, errCode := .bounds, state := .idle } } ∧
        (∀ i, s.counters.curX.toNat + i < s.imageWidth →
          t.pixel (s.counters.curX.toNat + i) s.counters.curY.toInt.toNat =
            extractIndex b (i % (8 / s.depth)) s.depth) ∧
        (∀ x y, x < s.imageWidth → y < s.imageHeight →
          ¬(y = s.counters.curY.toInt.toNat ∧ s.counters.curX.toNat ≤ x) → t.pixel x y = s.pixel x y) ∧
        (∀ k, t.planeRead k = paintedByte s (s.imageWidth - s.counters.curX.toNat)
          (fun i => extractIndex b (i % (8 / s.depth)) s.depth) k) ∧
        (∀ k, (∀ i, s.counters.curX.toNat + i < s.imageWidth →
            k ≠ pixelByte s.depth s.imageWidth (s.counters.curX.toNat + i) s.counters.curY.toInt.toNat) →
          t.planeRead k = s.planeRead k)) ∧
    (s.counters.curY.toInt < 0 →
      exec (.encodedRun a b) s = .next { s with
        scratch := { s.scratch with a := a, b := b, left := a, i := 0 },
        counters := { s.counters with bytesConsumed := s.counters.bytesConsumed + 2 },
        status := { s.status with busy := false, error := true, errCode := .bounds, state := .idle } })

/-- 42_rle_decoder.md R170: an absolute run that fits its row completes: its N(b, d) literal bytes stand in LIT_BUF,
pixel i of the run is the index of slot `i mod ppb` of literal byte `i div ppb`, at x + i; every other bit of the
plane and every byte of LIT_BUF at or above N(b, d) is unchanged; the
cursor moves by `b`, 2 + N(b, d) bytes are read, `b` pixels are counted, and the engine goes to HDR_A. -/
def Obligations.AbsoluteRunWritesItsPixels : Prop :=
  ∀ (b : Byte) (literal : List Byte) (s : State), 3 ≤ b.toNat → literal.length = paddedLength b.toNat s.depth →
    LegalConfig s.regs s.capacity → 0 ≤ s.counters.curY.toInt → s.counters.curY.toInt < s.imageHeight →
    s.counters.curX.toNat + b.toNat ≤ s.imageWidth →
    ∃ t, exec (.absolute b literal) s = .next t ∧
      t = { s with plane := t.plane, litBuf := t.litBuf,
                   scratch := { s.scratch with
                     a := 0, b := b, count := b, need := BitVec.ofNat 9 literal.length,
                     fill := BitVec.ofNat 9 literal.length, i := b },
                   counters := { s.counters with
                     curX := s.counters.curX + BitVec.ofNat 32 b.toNat,
                     bytesConsumed := s.counters.bytesConsumed + BitVec.ofNat 32 (2 + literal.length),
                     pixelsWritten := s.counters.pixelsWritten + BitVec.ofNat 32 b.toNat },
                   status := { s.status with state := .hdrA } } ∧
      (∀ k, t.litRead k = literal.getD k (s.litRead k)) ∧
      (∀ i, i < b.toNat → t.pixel (s.counters.curX.toNat + i) s.counters.curY.toInt.toNat =
        extractIndex (literal.getD (i / (8 / s.depth)) 0) (i % (8 / s.depth)) s.depth) ∧
      (∀ x y, x < s.imageWidth → y < s.imageHeight →
        ¬(y = s.counters.curY.toInt.toNat ∧ s.counters.curX.toNat ≤ x ∧ x < s.counters.curX.toNat + b.toNat) →
        t.pixel x y = s.pixel x y) ∧
      (∀ k, t.planeRead k = paintedByte s b.toNat
        (fun i => extractIndex (literal.getD (i / (8 / s.depth)) 0) (i % (8 / s.depth)) s.depth) k) ∧
      (∀ k, (∀ i, i < b.toNat →
          k ≠ pixelByte s.depth s.imageWidth (s.counters.curX.toNat + i) s.counters.curY.toInt.toNat) →
        t.planeRead k = s.planeRead k)

/-- 42_rle_decoder.md R170, R160, 60_exceptions.md R203: an absolute run that does not fit its row reads all its
literal bytes, writes the pixels up to the row's end, and no other bit of the plane, and then raises BoundsError at
x = W; below row 0 it writes none. -/
def Obligations.AbsoluteRunOverrunRaisesBoundsError : Prop :=
  ∀ (b : Byte) (literal : List Byte) (s : State), 3 ≤ b.toNat → literal.length = paddedLength b.toNat s.depth →
    LegalConfig s.regs s.capacity → s.counters.curX.toNat ≤ s.imageWidth →
    (s.counters.curY.toInt < 0 ∨
      0 ≤ s.counters.curY.toInt ∧ s.counters.curY.toInt < s.imageHeight ∧
        s.imageWidth < s.counters.curX.toNat + b.toNat) →
    ∃ t m, exec (.absolute b literal) s = .next t ∧
      m = (if s.counters.curY.toInt < 0 then 0 else s.imageWidth - s.counters.curX.toNat) ∧
      t = { s with plane := t.plane, litBuf := t.litBuf,
                   scratch := { s.scratch with
                     a := 0, b := b, count := b, need := BitVec.ofNat 9 literal.length,
                     fill := BitVec.ofNat 9 literal.length, i := BitVec.ofNat 8 m },
                   counters := { s.counters with
                     curX := s.counters.curX + BitVec.ofNat 32 m,
                     bytesConsumed := s.counters.bytesConsumed + BitVec.ofNat 32 (2 + literal.length),
                     pixelsWritten := s.counters.pixelsWritten + BitVec.ofNat 32 m },
                   status := { s.status with busy := false, error := true, errCode := .bounds, state := .idle } } ∧
      (∀ k, t.litRead k = literal.getD k (s.litRead k)) ∧
      (∀ i, i < m → t.pixel (s.counters.curX.toNat + i) s.counters.curY.toInt.toNat =
        extractIndex (literal.getD (i / (8 / s.depth)) 0) (i % (8 / s.depth)) s.depth) ∧
      (∀ x y, x < s.imageWidth → y < s.imageHeight →
        ¬(0 < m ∧ y = s.counters.curY.toInt.toNat ∧ s.counters.curX.toNat ≤ x) → t.pixel x y = s.pixel x y) ∧
      (∀ k, t.planeRead k = paintedByte s m
        (fun i => extractIndex (literal.getD (i / (8 / s.depth)) 0) (i % (8 / s.depth)) s.depth) k) ∧
      (∀ k, (∀ i, i < m →
          k ≠ pixelByte s.depth s.imageWidth (s.counters.curX.toNat + i) s.counters.curY.toInt.toNat) →
        t.planeRead k = s.planeRead k)

/-! ### Frames over all instructions -/

/-- 10_state.md R46, R40, 20_memory.md R68: no instruction changes a host register other than PIX_DATA, which only
GET_INDEX changes; none changes CAPACITY, what the source still offers, the events to come or the host's read bus. -/
def Obligations.InstructionsKeepTheHostRegisters : Prop :=
  ∀ (i : Instr) (s t : State), exec i s = .next t →
    t.capacity = s.capacity ∧ t.source = s.source ∧ t.inputs = s.inputs ∧ t.readData = s.readData ∧
    t.draw = s.draw ∧ t.regs = { s.regs with pixData := t.regs.pixData } ∧
    (i ≠ .getIndex → t.regs.pixData = s.regs.pixData)

/-- 10_state.md R35 to R38: NOP, CLEAR, GET_INDEX, SET_INDEX and the reserved commands leave the cursor and the
counters alone, and so do the datapath registers and LIT_BUF. -/
def Obligations.OnlyDecodeMovesTheCursor : Prop :=
  ∀ (i : Instr) (s t : State),
    i ∈ [Instr.nop, .clear, .getIndex, .setIndex, .reserved5, .reserved6, .reserved7, .reserved8, .reserved9,
      .reserved10, .reserved11, .reserved12, .reserved13, .reserved14, .reserved15] →
    exec i s = .next t →
    t.counters = s.counters ∧ t.scratch = s.scratch ∧ t.litBuf = s.litBuf

/-- 10_state.md R44: no instruction writes a plane byte beyond the image. -/
def Obligations.InstructionsWriteOnlyImageBytes : Prop :=
  ∀ (i : Instr) (s t : State) (k : Nat), exec i s = .next t → LegalConfig s.regs s.capacity →
    imageBytes s.regs ≤ k → t.planeRead k = s.planeRead k

/-- 10_state.md R27: an error stays until the next acceptance or reset: no host or source event but those changes
ERROR, ERR_CODE or DONE. -/
def Obligations.ErrorStaysUntilAcceptanceOrReset : Prop :=
  ∀ (s t : State) (e : Event) (rest : List Event), s.inputs = e :: rest → e ≠ .reset → e ≠ .engine →
    ¬(e = .wait ∧ s.status.busy = true) →
    (∀ addr data, e = .hostWrite addr data → addr.toNat / 4 = 0 → s.status.busy = true ∨ data.toNat % 16 = 0) →
    step s = .next t →
    t.status = { s.status with ign := t.status.ign } ∧ (s.status.ign = true → t.status.ign = true)

/-- 41_packing.md R125, R126, R128: SET_INDEX and then GET_INDEX at the same place give back the low bits of PIX_DATA. -/
def Obligations.GetIndexAfterSetIndexReturnsTheValue : Prop :=
  ∀ s : State, LegalConfig s.regs s.capacity →
    s.regs.pixX.toNat < s.imageWidth → s.regs.pixY.toNat < s.imageHeight →
    ∃ t u, exec .setIndex s = .next t ∧ exec .getIndex t = .next u ∧
      u.regs.pixData = BitVec.ofNat 8 (s.regs.pixData.toNat % 2 ^ s.depth)

/-! ### The invariant -/

/-- The invariant holds after reset, whatever PLANE_CAPACITY is within its bounds (00_scope.md R8). -/
def Obligations.ResetSatisfiesTheInvariant : Prop :=
  Inv State.reset ∧
  ∀ capacity : Word, 1 ≤ capacity.toNat → capacity.toNat ≤ 2 ^ 32 - 2 ^ 16 → Inv (State.resetWith capacity)

/-- AN INVARIANT THAT EVERY STEP KEEPS, from every state that satisfies it, whichever agent takes the step. -/
def Obligations.EveryStepKeepsTheInvariant : Prop :=
  ∀ s t : State, Inv s → step s = .next t → Inv t

/-- Under the invariant the machine stops only where no agent has a step (70_reset_and_hazards.md R232, 20_memory.md
R66; the form of the stops is the model's, logs 8, 16, 17): waiting for the host only while the engine is IDLE and no
event but the engine's own turn is next, waiting for the source only in a reading state to which the source offers
neither a byte nor EOF. It never stops at a plane or literal-buffer byte that does not exist, in EXEC without a
command, or at an instruction without a meaning. -/
def Obligations.StepsStopOnlyWhereTheBlockWaits : Prop :=
  ∀ s : State, Inv s →
    (∃ t, step s = .next t) ∨
    (step s = .fault .awaitingHost ∧ s.status.state = .idle ∧
      (s.inputs = [] ∨ ∃ events, s.inputs = .engine :: events)) ∨
    (step s = .fault .awaitingSource ∧ s.status.state ∈ [EngineState.hdrA, .hdrB, .deltaX, .deltaY, .absRead] ∧
      s.source.bytes = [] ∧ s.source.rest = .nothing ∧
      (s.inputs = [] ∨ ∃ events, s.inputs = .engine :: events ∨ s.inputs = .wait :: events))

/-- 42_rle_decoder.md R186, 10_state.md R38: PIXELS_WRITTEN <= W*H in every state of a decode that satisfies the
invariant. -/
def Obligations.PixelsWrittenNeverExceedsTheImage : Prop :=
  ∀ s : State, Inv s → jobRuns s = true → s.counters.pixelsWritten.toNat ≤ s.imageWidth * s.imageHeight

/-! ### Records and decodes as wholes -/

/-- 42_rle_decoder.md section 4 and R143: a record's meaning is what the engine's single steps on its bytes compose
to. -/
def Obligations.RecordIsItsEngineSteps : Prop :=
  ∀ (i : Instr) (s : State) (rest : List Byte), Inv s → s.status.state = .hdrA → i.wf s.depth = true →
    recordBytes i ≠ [] → s.source.bytes = recordBytes i ++ rest →
    ∃ n, 2 ≤ n ∧ engineSteps n s = exec i { s with source := { s.source with bytes := rest } }

/-- 42_rle_decoder.md R180: a DECODE job, run from its EXEC step by the engine's single steps on a finite stream
followed by EOF, ends as the spec's function DecodeRLE says: STATUS, every byte of the image, the cursor,
BYTES_CONSUMED and PIXELS_WRITTEN, each modulo 2^32 (for PIXELS_WRITTEN: log 14); bytes beyond the image and the
host registers are unchanged. -/
def Obligations.WholeDecodeIsTheSpecFunction : Prop :=
  ∀ (s : State) (bytes : List Byte) (stop : DecodeStop) (r : DecodeVars),
    Inv s → s.status.state = .exec → s.scratch.cmd = 2 → LegalDecodeConfig s.regs s.capacity →
    s.source = { bytes := bytes, rest := .eof } →
    decodeRLE s.imageWidth s.imageHeight s.depth bytes = (stop, r) →
    ∃ n t, engineSteps n s = .next t ∧
      t.status = DecodeStop.status s.status stop ∧
      (∀ k, k < imageBytes s.regs → t.planeRead k = r.plane.getD k 0) ∧
      (∀ k, imageBytes s.regs ≤ k → t.planeRead k = s.planeRead k) ∧
      t.counters = { curX := BitVec.ofNat 32 r.x, curY := BitVec.ofInt 32 r.y,
                     bytesConsumed := BitVec.ofNat 32 r.n, pixelsWritten := BitVec.ofNat 32 r.px } ∧
      t.planeLen.toNat = imageBytes s.regs ∧ t.regs = s.regs ∧ t.capacity = s.capacity ∧
      t.source.bytes = bytes.drop r.n

/-- 42_rle_decoder.md R181: a decode whose source offers a finite stream S followed by EOF ends, with DONE or with an
error, after at most 256 * (|S| + 1) engine steps. One whose source offers the record `00 02 00 00` over and over
(log 25) runs for ever: after every number of engine steps the job still runs. One whose source offers neither a byte
nor EOF, in a state that reads, has no step. -/
def Obligations.DecodeOfAFiniteStreamEnds : Prop :=
  (∀ s : State, Inv s → s.status.state = .exec → s.scratch.cmd = 2 → s.source.rest = .eof →
    ∃ n t, n ≤ 256 * (s.source.bytes.length + 1) ∧ engineSteps n s = .next t ∧ t.status.state = .idle ∧
      t.status.busy = false ∧ (t.status.done = true ∨ t.status.error = true)) ∧
  (∀ s : State, Inv s → s.status.state = .hdrA →
    s.source = { bytes := [], rest := .cycle 0x00 [0x02, 0x00, 0x00] } →
    ∀ n, ∃ t, engineSteps n s = .next t ∧ jobRuns t = true ∧ t.status.busy = true) ∧
  (∀ s : State, s.source = { bytes := [], rest := .nothing } →
    s.status.state ∈ [EngineState.hdrA, .hdrB, .deltaX, .deltaY, .absRead] →
    engineStep s = .fault .awaitingSource)
end

