-- ==== Sys2Proof/Laws/Memory.lean ====
section
/-! SUPPORT. The laws of the byte memory: reading after a write, the canonical form, and the bound on addresses.
Every operation that changes a memory is `Memory.store` or `Memory.fill`. -/

namespace Sys2Proof.Machine

theorem lookup_store (k j : Nat) (v : Byte) (m : Memory) :
    Memory.lookup j (Memory.store k v m) = if j = k then some v else Memory.lookup j m := by
  induction m with
  | nil => simp [Memory.store, Memory.lookup]
  | cons c m ih =>
    simp only [Memory.store]
    split
    · simp [Memory.lookup]
    · split
      · rename_i h; subst h; simp only [Memory.lookup]; split <;> simp_all
      · simp only [Memory.lookup, ih]
        by_cases h1 : j = c.1 <;> by_cases h2 : j = k <;> simp_all

theorem lookup_store_same (k : Nat) (v : Byte) (m : Memory) :
    Memory.lookup k (Memory.store k v m) = some v := by simp [lookup_store]

theorem lookup_store_other {k j : Nat} (h : j ≠ k) (v : Byte) (m : Memory) :
    Memory.lookup j (Memory.store k v m) = Memory.lookup j m := by simp [lookup_store, h]

theorem lookup_append (j : Nat) (m₁ m₂ : Memory) :
    Memory.lookup j (m₁ ++ m₂) = (Memory.lookup j m₁).or (Memory.lookup j m₂) := by
  induction m₁ with
  | nil => simp [Memory.lookup]
  | cons c m ih => simp only [List.cons_append, Memory.lookup, ih]; split <;> simp

theorem lookup_map_const (v : Byte) (l : List Nat) (j : Nat) :
    Memory.lookup j (l.map fun k => (k, v)) = if j ∈ l then some v else none := by
  induction l with
  | nil => simp [Memory.lookup]
  | cons a l ih =>
    simp only [List.map_cons, Memory.lookup, ih, List.mem_cons]
    by_cases h : j = a <;> simp [h]

theorem lookup_filter_ge (n j : Nat) (m : Memory) (h : n ≤ j) :
    Memory.lookup j (m.filter fun c => decide (n ≤ c.1)) = Memory.lookup j m := by
  induction m with
  | nil => rfl
  | cons c m ih =>
    simp only [List.filter_cons]
    split
    · simp only [Memory.lookup, ih]
    · rename_i hc
      have : j ≠ c.1 := by rintro rfl; simp_all
      simp [Memory.lookup, ih, this]

theorem lookup_fill (n j : Nat) (v : Byte) (m : Memory) :
    Memory.lookup j (Memory.fill n v m) = if j < n then some v else Memory.lookup j m := by
  simp only [Memory.fill, lookup_append, lookup_map_const, List.mem_range]
  split
  · simp
  · simp only [Option.none_or]
    exact lookup_filter_ge n j m (by omega)

/-! ### The canonical form -/

theorem wf_cons (c : Host.Cell) (m : Memory) :
    Memory.wf (c :: m) = true ↔ (∀ e ∈ m, c.1 < e.1) ∧ Memory.wf m = true := by
  simp [Memory.wf]

theorem mem_store {k : Nat} {v : Byte} {m : Memory} {e : Host.Cell} (h : e ∈ Memory.store k v m) :
    e.1 = k ∨ e ∈ m := by
  induction m with
  | nil => simp_all [Memory.store]
  | cons c m ih =>
    simp only [Memory.store] at h
    split at h
    · simp only [List.mem_cons] at h ⊢; rcases h with rfl | h <;> simp_all
    · split at h
      · simp only [List.mem_cons] at h ⊢; rcases h with rfl | h <;> simp_all
      · simp only [List.mem_cons] at h ⊢
        rcases h with rfl | h
        · simp
        · rcases ih h with h | h <;> simp [h]

/-- Writing a byte keeps the canonical form. -/
theorem wf_store (k : Nat) (v : Byte) (m : Memory) (h : Memory.wf m = true) :
    Memory.wf (Memory.store k v m) = true := by
  induction m with
  | nil => simp [Memory.store, Memory.wf]
  | cons c m ih =>
    rw [wf_cons] at h
    simp only [Memory.store]
    split
    · rename_i hk
      rw [wf_cons, wf_cons]
      refine ⟨fun e he => ?_, h⟩
      rcases List.mem_cons.mp he with rfl | he
      · exact hk
      · exact lt_trans hk (h.1 e he)
    · split
      · rename_i hk
        rw [wf_cons]
        exact ⟨fun e he => hk ▸ h.1 e he, h.2⟩
      · rw [wf_cons]
        refine ⟨fun e he => ?_, ih h.2⟩
        rcases mem_store he with he | he
        · omega
        · exact h.1 e he

theorem wf_iff_pairwise (m : Memory) : Memory.wf m = true ↔ m.Pairwise (fun c e => c.1 < e.1) := by
  induction m with
  | nil => simp [Memory.wf]
  | cons c m ih => rw [wf_cons, List.pairwise_cons, ih]

/-- Filling the addresses below a bound keeps the canonical form. -/
theorem wf_fill (n : Nat) (v : Byte) (m : Memory) (h : Memory.wf m = true) :
    Memory.wf (Memory.fill n v m) = true := by
  rw [wf_iff_pairwise] at *
  rw [Memory.fill, List.pairwise_append]
  refine ⟨?_, h.filter _, ?_⟩
  · rw [List.pairwise_map]; exact List.pairwise_lt_range
  · intro a ha b hb
    simp only [List.mem_map, List.mem_range] at ha
    simp only [List.mem_filter, decide_eq_true_eq] at hb
    obtain ⟨k, hk, rfl⟩ := ha
    exact lt_of_lt_of_le hk hb.2

/-- The memories after reset are in canonical form, whatever PLANE_CAPACITY is. -/
theorem wf_reset (capacity : Word) :
    Memory.wf (State.resetWith capacity).plane = true ∧ Memory.wf (State.resetWith capacity).litBuf = true :=
  ⟨rfl, rfl⟩

theorem planeWrite_wf {s : State} (k : Nat) (v : Byte) (h : Memory.wf s.plane = true) :
    Memory.wf (s.planeWrite k v).plane = true := wf_store k v s.plane h

theorem litWrite_wf {s : State} (k : Nat) (v : Byte) (h : Memory.wf s.litBuf = true) :
    Memory.wf (s.litWrite k v).litBuf = true := wf_store k v s.litBuf h

/-! ### The bound on addresses -/

theorem below_iff (n : Nat) (m : Memory) : Memory.below n m = true ↔ ∀ c ∈ m, c.1 < n := by
  simp [Memory.below]

/-- Writing below a bound keeps the bound. -/
theorem below_store {n k : Nat} (v : Byte) {m : Memory} (hk : k < n) (h : Memory.below n m = true) :
    Memory.below n (Memory.store k v m) = true := by
  rw [below_iff] at *
  intro c hc
  rcases mem_store hc with hc | hc
  · omega
  · exact h c hc

/-- Filling below a bound keeps the bound. -/
theorem below_fill {n j : Nat} (v : Byte) {m : Memory} (hj : j ≤ n) (h : Memory.below n m = true) :
    Memory.below n (Memory.fill j v m) = true := by
  rw [below_iff] at *
  intro c hc
  simp only [Memory.fill, List.mem_append, List.mem_map, List.mem_range, List.mem_filter] at hc
  rcases hc with ⟨k, hk, rfl⟩ | hc
  · simp; omega
  · exact h c hc.1

/-! ### Reading the plane and LIT_BUF -/

theorem planeRead_planeWrite (s : State) (k j : Nat) (v : Byte) :
    (s.planeWrite k v).planeRead j = if j = k then v else s.planeRead j := by
  simp only [State.planeRead, State.planeWrite, State.setPlane, lookup_store]
  split <;> simp

theorem litRead_litWrite (s : State) (k j : Nat) (v : Byte) :
    (s.litWrite k v).litRead j = if j = k then v else s.litRead j := by
  simp only [State.litRead, State.litWrite, State.setLitBuf, lookup_store]
  split <;> simp

end Sys2Proof.Machine
end

