-- ==== Sys2Proof/Laws/State.lean ====
section
/-! SUPPORT. One lemma per field and update of the state record: what each named update leaves in each field. -/

namespace Sys2Proof.Machine.State

section
variable (s : State) (v : HostRegs)
@[simp] theorem setRegs_capacity : (s.setRegs v).capacity = s.capacity := rfl
@[simp] theorem setRegs_regs : (s.setRegs v).regs = v := rfl
@[simp] theorem setRegs_status : (s.setRegs v).status = s.status := rfl
@[simp] theorem setRegs_counters : (s.setRegs v).counters = s.counters := rfl
@[simp] theorem setRegs_planeLen : (s.setRegs v).planeLen = s.planeLen := rfl
@[simp] theorem setRegs_scratch : (s.setRegs v).scratch = s.scratch := rfl
@[simp] theorem setRegs_litBuf : (s.setRegs v).litBuf = s.litBuf := rfl
@[simp] theorem setRegs_plane : (s.setRegs v).plane = s.plane := rfl
@[simp] theorem setRegs_source : (s.setRegs v).source = s.source := rfl
@[simp] theorem setRegs_inputs : (s.setRegs v).inputs = s.inputs := rfl
@[simp] theorem setRegs_readData : (s.setRegs v).readData = s.readData := rfl
@[simp] theorem setRegs_draw : (s.setRegs v).draw = s.draw := rfl
end

section
variable (s : State) (v : Status)
@[simp] theorem setStatus_capacity : (s.setStatus v).capacity = s.capacity := rfl
@[simp] theorem setStatus_regs : (s.setStatus v).regs = s.regs := rfl
@[simp] theorem setStatus_status : (s.setStatus v).status = v := rfl
@[simp] theorem setStatus_counters : (s.setStatus v).counters = s.counters := rfl
@[simp] theorem setStatus_planeLen : (s.setStatus v).planeLen = s.planeLen := rfl
@[simp] theorem setStatus_scratch : (s.setStatus v).scratch = s.scratch := rfl
@[simp] theorem setStatus_litBuf : (s.setStatus v).litBuf = s.litBuf := rfl
@[simp] theorem setStatus_plane : (s.setStatus v).plane = s.plane := rfl
@[simp] theorem setStatus_source : (s.setStatus v).source = s.source := rfl
@[simp] theorem setStatus_inputs : (s.setStatus v).inputs = s.inputs := rfl
@[simp] theorem setStatus_readData : (s.setStatus v).readData = s.readData := rfl
@[simp] theorem setStatus_draw : (s.setStatus v).draw = s.draw := rfl
end

section
variable (s : State) (v : Counters)
@[simp] theorem setCounters_capacity : (s.setCounters v).capacity = s.capacity := rfl
@[simp] theorem setCounters_regs : (s.setCounters v).regs = s.regs := rfl
@[simp] theorem setCounters_status : (s.setCounters v).status = s.status := rfl
@[simp] theorem setCounters_counters : (s.setCounters v).counters = v := rfl
@[simp] theorem setCounters_planeLen : (s.setCounters v).planeLen = s.planeLen := rfl
@[simp] theorem setCounters_scratch : (s.setCounters v).scratch = s.scratch := rfl
@[simp] theorem setCounters_litBuf : (s.setCounters v).litBuf = s.litBuf := rfl
@[simp] theorem setCounters_plane : (s.setCounters v).plane = s.plane := rfl
@[simp] theorem setCounters_source : (s.setCounters v).source = s.source := rfl
@[simp] theorem setCounters_inputs : (s.setCounters v).inputs = s.inputs := rfl
@[simp] theorem setCounters_readData : (s.setCounters v).readData = s.readData := rfl
@[simp] theorem setCounters_draw : (s.setCounters v).draw = s.draw := rfl
end

section
variable (s : State) (v : Word)
@[simp] theorem setPlaneLen_capacity : (s.setPlaneLen v).capacity = s.capacity := rfl
@[simp] theorem setPlaneLen_regs : (s.setPlaneLen v).regs = s.regs := rfl
@[simp] theorem setPlaneLen_status : (s.setPlaneLen v).status = s.status := rfl
@[simp] theorem setPlaneLen_counters : (s.setPlaneLen v).counters = s.counters := rfl
@[simp] theorem setPlaneLen_planeLen : (s.setPlaneLen v).planeLen = v := rfl
@[simp] theorem setPlaneLen_scratch : (s.setPlaneLen v).scratch = s.scratch := rfl
@[simp] theorem setPlaneLen_litBuf : (s.setPlaneLen v).litBuf = s.litBuf := rfl
@[simp] theorem setPlaneLen_plane : (s.setPlaneLen v).plane = s.plane := rfl
@[simp] theorem setPlaneLen_source : (s.setPlaneLen v).source = s.source := rfl
@[simp] theorem setPlaneLen_inputs : (s.setPlaneLen v).inputs = s.inputs := rfl
@[simp] theorem setPlaneLen_readData : (s.setPlaneLen v).readData = s.readData := rfl
@[simp] theorem setPlaneLen_draw : (s.setPlaneLen v).draw = s.draw := rfl
end

section
variable (s : State) (v : Scratch)
@[simp] theorem setScratch_capacity : (s.setScratch v).capacity = s.capacity := rfl
@[simp] theorem setScratch_regs : (s.setScratch v).regs = s.regs := rfl
@[simp] theorem setScratch_status : (s.setScratch v).status = s.status := rfl
@[simp] theorem setScratch_counters : (s.setScratch v).counters = s.counters := rfl
@[simp] theorem setScratch_planeLen : (s.setScratch v).planeLen = s.planeLen := rfl
@[simp] theorem setScratch_scratch : (s.setScratch v).scratch = v := rfl
@[simp] theorem setScratch_litBuf : (s.setScratch v).litBuf = s.litBuf := rfl
@[simp] theorem setScratch_plane : (s.setScratch v).plane = s.plane := rfl
@[simp] theorem setScratch_source : (s.setScratch v).source = s.source := rfl
@[simp] theorem setScratch_inputs : (s.setScratch v).inputs = s.inputs := rfl
@[simp] theorem setScratch_readData : (s.setScratch v).readData = s.readData := rfl
@[simp] theorem setScratch_draw : (s.setScratch v).draw = s.draw := rfl
end

section
variable (s : State) (v : Memory)
@[simp] theorem setLitBuf_capacity : (s.setLitBuf v).capacity = s.capacity := rfl
@[simp] theorem setLitBuf_regs : (s.setLitBuf v).regs = s.regs := rfl
@[simp] theorem setLitBuf_status : (s.setLitBuf v).status = s.status := rfl
@[simp] theorem setLitBuf_counters : (s.setLitBuf v).counters = s.counters := rfl
@[simp] theorem setLitBuf_planeLen : (s.setLitBuf v).planeLen = s.planeLen := rfl
@[simp] theorem setLitBuf_scratch : (s.setLitBuf v).scratch = s.scratch := rfl
@[simp] theorem setLitBuf_litBuf : (s.setLitBuf v).litBuf = v := rfl
@[simp] theorem setLitBuf_plane : (s.setLitBuf v).plane = s.plane := rfl
@[simp] theorem setLitBuf_source : (s.setLitBuf v).source = s.source := rfl
@[simp] theorem setLitBuf_inputs : (s.setLitBuf v).inputs = s.inputs := rfl
@[simp] theorem setLitBuf_readData : (s.setLitBuf v).readData = s.readData := rfl
@[simp] theorem setLitBuf_draw : (s.setLitBuf v).draw = s.draw := rfl
end

section
variable (s : State) (v : Memory)
@[simp] theorem setPlane_capacity : (s.setPlane v).capacity = s.capacity := rfl
@[simp] theorem setPlane_regs : (s.setPlane v).regs = s.regs := rfl
@[simp] theorem setPlane_status : (s.setPlane v).status = s.status := rfl
@[simp] theorem setPlane_counters : (s.setPlane v).counters = s.counters := rfl
@[simp] theorem setPlane_planeLen : (s.setPlane v).planeLen = s.planeLen := rfl
@[simp] theorem setPlane_scratch : (s.setPlane v).scratch = s.scratch := rfl
@[simp] theorem setPlane_litBuf : (s.setPlane v).litBuf = s.litBuf := rfl
@[simp] theorem setPlane_plane : (s.setPlane v).plane = v := rfl
@[simp] theorem setPlane_source : (s.setPlane v).source = s.source := rfl
@[simp] theorem setPlane_inputs : (s.setPlane v).inputs = s.inputs := rfl
@[simp] theorem setPlane_readData : (s.setPlane v).readData = s.readData := rfl
@[simp] theorem setPlane_draw : (s.setPlane v).draw = s.draw := rfl
end

section
variable (s : State) (v : Source)
@[simp] theorem setSource_capacity : (s.setSource v).capacity = s.capacity := rfl
@[simp] theorem setSource_regs : (s.setSource v).regs = s.regs := rfl
@[simp] theorem setSource_status : (s.setSource v).status = s.status := rfl
@[simp] theorem setSource_counters : (s.setSource v).counters = s.counters := rfl
@[simp] theorem setSource_planeLen : (s.setSource v).planeLen = s.planeLen := rfl
@[simp] theorem setSource_scratch : (s.setSource v).scratch = s.scratch := rfl
@[simp] theorem setSource_litBuf : (s.setSource v).litBuf = s.litBuf := rfl
@[simp] theorem setSource_plane : (s.setSource v).plane = s.plane := rfl
@[simp] theorem setSource_source : (s.setSource v).source = v := rfl
@[simp] theorem setSource_inputs : (s.setSource v).inputs = s.inputs := rfl
@[simp] theorem setSource_readData : (s.setSource v).readData = s.readData := rfl
@[simp] theorem setSource_draw : (s.setSource v).draw = s.draw := rfl
end

section
variable (s : State) (v : List Event)
@[simp] theorem setInputs_capacity : (s.setInputs v).capacity = s.capacity := rfl
@[simp] theorem setInputs_regs : (s.setInputs v).regs = s.regs := rfl
@[simp] theorem setInputs_status : (s.setInputs v).status = s.status := rfl
@[simp] theorem setInputs_counters : (s.setInputs v).counters = s.counters := rfl
@[simp] theorem setInputs_planeLen : (s.setInputs v).planeLen = s.planeLen := rfl
@[simp] theorem setInputs_scratch : (s.setInputs v).scratch = s.scratch := rfl
@[simp] theorem setInputs_litBuf : (s.setInputs v).litBuf = s.litBuf := rfl
@[simp] theorem setInputs_plane : (s.setInputs v).plane = s.plane := rfl
@[simp] theorem setInputs_source : (s.setInputs v).source = s.source := rfl
@[simp] theorem setInputs_inputs : (s.setInputs v).inputs = v := rfl
@[simp] theorem setInputs_readData : (s.setInputs v).readData = s.readData := rfl
@[simp] theorem setInputs_draw : (s.setInputs v).draw = s.draw := rfl
end

section
variable (s : State) (v : Word)
@[simp] theorem setReadData_capacity : (s.setReadData v).capacity = s.capacity := rfl
@[simp] theorem setReadData_regs : (s.setReadData v).regs = s.regs := rfl
@[simp] theorem setReadData_status : (s.setReadData v).status = s.status := rfl
@[simp] theorem setReadData_counters : (s.setReadData v).counters = s.counters := rfl
@[simp] theorem setReadData_planeLen : (s.setReadData v).planeLen = s.planeLen := rfl
@[simp] theorem setReadData_scratch : (s.setReadData v).scratch = s.scratch := rfl
@[simp] theorem setReadData_litBuf : (s.setReadData v).litBuf = s.litBuf := rfl
@[simp] theorem setReadData_plane : (s.setReadData v).plane = s.plane := rfl
@[simp] theorem setReadData_source : (s.setReadData v).source = s.source := rfl
@[simp] theorem setReadData_inputs : (s.setReadData v).inputs = s.inputs := rfl
@[simp] theorem setReadData_readData : (s.setReadData v).readData = v := rfl
@[simp] theorem setReadData_draw : (s.setReadData v).draw = s.draw := rfl
end

end Sys2Proof.Machine.State
end

