-- ==== Sys2Proof/Laws/Ops.lean ====
section
/-! SUPPORT. What each named operation leaves in each field of the state, and what each shared operation can do. -/

namespace Sys2Proof.Machine

/-! ### Fields after the named operations -/

section
variable (e : ErrCode) (s : State)
@[simp] theorem raiseError_capacity : (raiseError e s).capacity = s.capacity := rfl
@[simp] theorem raiseError_regs : (raiseError e s).regs = s.regs := rfl
@[simp] theorem raiseError_status : (raiseError e s).status = Status.raised e s.status := rfl
@[simp] theorem raiseError_counters : (raiseError e s).counters = s.counters := rfl
@[simp] theorem raiseError_planeLen : (raiseError e s).planeLen = s.planeLen := rfl
@[simp] theorem raiseError_scratch : (raiseError e s).scratch = s.scratch := rfl
@[simp] theorem raiseError_litBuf : (raiseError e s).litBuf = s.litBuf := rfl
@[simp] theorem raiseError_plane : (raiseError e s).plane = s.plane := rfl
@[simp] theorem raiseError_source : (raiseError e s).source = s.source := rfl
@[simp] theorem raiseError_inputs : (raiseError e s).inputs = s.inputs := rfl
@[simp] theorem raiseError_readData : (raiseError e s).readData = s.readData := rfl
@[simp] theorem raiseError_draw : (raiseError e s).draw = s.draw := rfl
end

section
variable (s : State)
@[simp] theorem finish_capacity : (finish s).capacity = s.capacity := rfl
@[simp] theorem finish_regs : (finish s).regs = s.regs := rfl
@[simp] theorem finish_status : (finish s).status = Status.finished s.status := rfl
@[simp] theorem finish_counters : (finish s).counters = s.counters := rfl
@[simp] theorem finish_planeLen : (finish s).planeLen = s.planeLen := rfl
@[simp] theorem finish_scratch : (finish s).scratch = s.scratch := rfl
@[simp] theorem finish_litBuf : (finish s).litBuf = s.litBuf := rfl
@[simp] theorem finish_plane : (finish s).plane = s.plane := rfl
@[simp] theorem finish_source : (finish s).source = s.source := rfl
@[simp] theorem finish_inputs : (finish s).inputs = s.inputs := rfl
@[simp] theorem finish_readData : (finish s).readData = s.readData := rfl
@[simp] theorem finish_draw : (finish s).draw = s.draw := rfl
end

section
variable (cmd : BitVec 4) (s : State)
@[simp] theorem accept_capacity : (accept cmd s).capacity = s.capacity := rfl
@[simp] theorem accept_regs : (accept cmd s).regs = s.regs := rfl
@[simp] theorem accept_status : (accept cmd s).status = Status.accepted s.status := rfl
@[simp] theorem accept_counters : (accept cmd s).counters = s.counters := rfl
@[simp] theorem accept_planeLen : (accept cmd s).planeLen = s.planeLen := rfl
@[simp] theorem accept_scratch : (accept cmd s).scratch = { s.scratch with cmd := cmd } := rfl
@[simp] theorem accept_litBuf : (accept cmd s).litBuf = s.litBuf := rfl
@[simp] theorem accept_plane : (accept cmd s).plane = s.plane := rfl
@[simp] theorem accept_source : (accept cmd s).source = s.source := rfl
@[simp] theorem accept_inputs : (accept cmd s).inputs = s.inputs := rfl
@[simp] theorem accept_readData : (accept cmd s).readData = s.readData := rfl
@[simp] theorem accept_draw : (accept cmd s).draw = s.draw := rfl
end

section
variable (x : EngineState) (s : State)
@[simp] theorem goTo_capacity : (goTo x s).capacity = s.capacity := rfl
@[simp] theorem goTo_regs : (goTo x s).regs = s.regs := rfl
@[simp] theorem goTo_status : (goTo x s).status = Status.goTo x s.status := rfl
@[simp] theorem goTo_counters : (goTo x s).counters = s.counters := rfl
@[simp] theorem goTo_planeLen : (goTo x s).planeLen = s.planeLen := rfl
@[simp] theorem goTo_scratch : (goTo x s).scratch = s.scratch := rfl
@[simp] theorem goTo_litBuf : (goTo x s).litBuf = s.litBuf := rfl
@[simp] theorem goTo_plane : (goTo x s).plane = s.plane := rfl
@[simp] theorem goTo_source : (goTo x s).source = s.source := rfl
@[simp] theorem goTo_inputs : (goTo x s).inputs = s.inputs := rfl
@[simp] theorem goTo_readData : (goTo x s).readData = s.readData := rfl
@[simp] theorem goTo_draw : (goTo x s).draw = s.draw := rfl
end

section
variable (s : State)
@[simp] theorem markIgnored_capacity : (markIgnored s).capacity = s.capacity := rfl
@[simp] theorem markIgnored_regs : (markIgnored s).regs = s.regs := rfl
@[simp] theorem markIgnored_status : (markIgnored s).status = Status.ignored s.status := rfl
@[simp] theorem markIgnored_counters : (markIgnored s).counters = s.counters := rfl
@[simp] theorem markIgnored_planeLen : (markIgnored s).planeLen = s.planeLen := rfl
@[simp] theorem markIgnored_scratch : (markIgnored s).scratch = s.scratch := rfl
@[simp] theorem markIgnored_litBuf : (markIgnored s).litBuf = s.litBuf := rfl
@[simp] theorem markIgnored_plane : (markIgnored s).plane = s.plane := rfl
@[simp] theorem markIgnored_source : (markIgnored s).source = s.source := rfl
@[simp] theorem markIgnored_inputs : (markIgnored s).inputs = s.inputs := rfl
@[simp] theorem markIgnored_readData : (markIgnored s).readData = s.readData := rfl
@[simp] theorem markIgnored_draw : (markIgnored s).draw = s.draw := rfl
end

section
variable (s : State)
@[simp] theorem countByte_capacity : (countByte s).capacity = s.capacity := rfl
@[simp] theorem countByte_regs : (countByte s).regs = s.regs := rfl
@[simp] theorem countByte_status : (countByte s).status = s.status := rfl
@[simp] theorem countByte_counters : (countByte s).counters = s.counters.countByte := rfl
@[simp] theorem countByte_planeLen : (countByte s).planeLen = s.planeLen := rfl
@[simp] theorem countByte_scratch : (countByte s).scratch = s.scratch := rfl
@[simp] theorem countByte_litBuf : (countByte s).litBuf = s.litBuf := rfl
@[simp] theorem countByte_plane : (countByte s).plane = s.plane := rfl
@[simp] theorem countByte_source : (countByte s).source = s.source := rfl
@[simp] theorem countByte_inputs : (countByte s).inputs = s.inputs := rfl
@[simp] theorem countByte_readData : (countByte s).readData = s.readData := rfl
@[simp] theorem countByte_draw : (countByte s).draw = s.draw := rfl
end

section
variable (n : Nat) (s : State)
@[simp] theorem advX_capacity : (advX n s).capacity = s.capacity := rfl
@[simp] theorem advX_regs : (advX n s).regs = s.regs := rfl
@[simp] theorem advX_status : (advX n s).status = s.status := rfl
@[simp] theorem advX_counters : (advX n s).counters = s.counters.advX s.imageWidth n := rfl
@[simp] theorem advX_planeLen : (advX n s).planeLen = s.planeLen := rfl
@[simp] theorem advX_scratch : (advX n s).scratch = s.scratch := rfl
@[simp] theorem advX_litBuf : (advX n s).litBuf = s.litBuf := rfl
@[simp] theorem advX_plane : (advX n s).plane = s.plane := rfl
@[simp] theorem advX_source : (advX n s).source = s.source := rfl
@[simp] theorem advX_inputs : (advX n s).inputs = s.inputs := rfl
@[simp] theorem advX_readData : (advX n s).readData = s.readData := rfl
@[simp] theorem advX_draw : (advX n s).draw = s.draw := rfl
end

section
variable (n : Nat) (s : State)
@[simp] theorem decY_capacity : (decY n s).capacity = s.capacity := rfl
@[simp] theorem decY_regs : (decY n s).regs = s.regs := rfl
@[simp] theorem decY_status : (decY n s).status = s.status := rfl
@[simp] theorem decY_counters : (decY n s).counters = s.counters.decY n := rfl
@[simp] theorem decY_planeLen : (decY n s).planeLen = s.planeLen := rfl
@[simp] theorem decY_scratch : (decY n s).scratch = s.scratch := rfl
@[simp] theorem decY_litBuf : (decY n s).litBuf = s.litBuf := rfl
@[simp] theorem decY_plane : (decY n s).plane = s.plane := rfl
@[simp] theorem decY_source : (decY n s).source = s.source := rfl
@[simp] theorem decY_inputs : (decY n s).inputs = s.inputs := rfl
@[simp] theorem decY_readData : (decY n s).readData = s.readData := rfl
@[simp] theorem decY_draw : (decY n s).draw = s.draw := rfl
end

section
variable (s : State) (k : Nat) (v : Byte)
@[simp] theorem planeWrite_capacity : (s.planeWrite k v).capacity = s.capacity := rfl
@[simp] theorem planeWrite_regs : (s.planeWrite k v).regs = s.regs := rfl
@[simp] theorem planeWrite_status : (s.planeWrite k v).status = s.status := rfl
@[simp] theorem planeWrite_counters : (s.planeWrite k v).counters = s.counters := rfl
@[simp] theorem planeWrite_planeLen : (s.planeWrite k v).planeLen = s.planeLen := rfl
@[simp] theorem planeWrite_scratch : (s.planeWrite k v).scratch = s.scratch := rfl
@[simp] theorem planeWrite_litBuf : (s.planeWrite k v).litBuf = s.litBuf := rfl
@[simp] theorem planeWrite_plane : (s.planeWrite k v).plane = Memory.store k v s.plane := rfl
@[simp] theorem planeWrite_source : (s.planeWrite k v).source = s.source := rfl
@[simp] theorem planeWrite_inputs : (s.planeWrite k v).inputs = s.inputs := rfl
@[simp] theorem planeWrite_readData : (s.planeWrite k v).readData = s.readData := rfl
@[simp] theorem planeWrite_draw : (s.planeWrite k v).draw = s.draw := rfl
end

section
variable (s : State) (k : Nat) (v : Byte)
@[simp] theorem litWrite_capacity : (s.litWrite k v).capacity = s.capacity := rfl
@[simp] theorem litWrite_regs : (s.litWrite k v).regs = s.regs := rfl
@[simp] theorem litWrite_status : (s.litWrite k v).status = s.status := rfl
@[simp] theorem litWrite_counters : (s.litWrite k v).counters = s.counters := rfl
@[simp] theorem litWrite_planeLen : (s.litWrite k v).planeLen = s.planeLen := rfl
@[simp] theorem litWrite_scratch : (s.litWrite k v).scratch = s.scratch := rfl
@[simp] theorem litWrite_litBuf : (s.litWrite k v).litBuf = Memory.store k v s.litBuf := rfl
@[simp] theorem litWrite_plane : (s.litWrite k v).plane = s.plane := rfl
@[simp] theorem litWrite_source : (s.litWrite k v).source = s.source := rfl
@[simp] theorem litWrite_inputs : (s.litWrite k v).inputs = s.inputs := rfl
@[simp] theorem litWrite_readData : (s.litWrite k v).readData = s.readData := rfl
@[simp] theorem litWrite_draw : (s.litWrite k v).draw = s.draw := rfl
end

/-! ### STATUS after each change -/

section
variable (st : Status) (e : ErrCode) (x : EngineState)
@[simp] theorem raised_busy : (Status.raised e st).busy = false := rfl
@[simp] theorem raised_done : (Status.raised e st).done = st.done := rfl
@[simp] theorem raised_error : (Status.raised e st).error = true := rfl
@[simp] theorem raised_ign : (Status.raised e st).ign = st.ign := rfl
@[simp] theorem raised_errCode : (Status.raised e st).errCode = e := rfl
@[simp] theorem raised_state : (Status.raised e st).state = .idle := rfl
@[simp] theorem finished_busy : (Status.finished st).busy = false := rfl
@[simp] theorem finished_done : (Status.finished st).done = true := rfl
@[simp] theorem finished_error : (Status.finished st).error = st.error := rfl
@[simp] theorem finished_ign : (Status.finished st).ign = st.ign := rfl
@[simp] theorem finished_errCode : (Status.finished st).errCode = st.errCode := rfl
@[simp] theorem finished_state : (Status.finished st).state = .idle := rfl
@[simp] theorem accepted_busy : (Status.accepted st).busy = true := rfl
@[simp] theorem accepted_done : (Status.accepted st).done = false := rfl
@[simp] theorem accepted_error : (Status.accepted st).error = false := rfl
@[simp] theorem accepted_ign : (Status.accepted st).ign = false := rfl
@[simp] theorem accepted_errCode : (Status.accepted st).errCode = .noError := rfl
@[simp] theorem accepted_state : (Status.accepted st).state = .exec := rfl
@[simp] theorem ignored_busy : (Status.ignored st).busy = st.busy := rfl
@[simp] theorem ignored_done : (Status.ignored st).done = st.done := rfl
@[simp] theorem ignored_error : (Status.ignored st).error = st.error := rfl
@[simp] theorem ignored_ign : (Status.ignored st).ign = true := rfl
@[simp] theorem ignored_errCode : (Status.ignored st).errCode = st.errCode := rfl
@[simp] theorem ignored_state : (Status.ignored st).state = st.state := rfl
@[simp] theorem goTo_busy : (Status.goTo x st).busy = st.busy := rfl
@[simp] theorem goTo_done : (Status.goTo x st).done = st.done := rfl
@[simp] theorem goTo_error : (Status.goTo x st).error = st.error := rfl
@[simp] theorem goTo_ign : (Status.goTo x st).ign = st.ign := rfl
@[simp] theorem goTo_errCode : (Status.goTo x st).errCode = st.errCode := rfl
@[simp] theorem goTo_state : (Status.goTo x st).state = x := rfl
end

/-! ### What the shared operations can do -/

@[simp] theorem andThen_next (s : State) (f : State → Result) : andThen (.next s) f = f s := rfl
@[simp] theorem andThen_fault (e : Fault) (f : State → Result) : andThen (.fault e) f = .fault e := rfl
@[simp] theorem andThen_refused (e : Refusal) (f : State → Result) : andThen (.refused e) f = .refused e := rfl

/-- A sequence answers a next state only through a next state of its first part. -/
theorem andThen_next_cases {r : Result} {f : State → Result} {t : State} (h : andThen r f = .next t) :
    ∃ s, r = .next s ∧ f s = .next t := by
  cases r with
  | next s => exact ⟨s, rfl, h⟩
  | fault e => cases h
  | refused e => cases h

/-- Validation raises ValidationError, or passes and writes PLANE_LEN (40_commands.md R101). -/
theorem withValidConfig_cases (s : State) (k : State → Result) :
    (∃ p, checkConfig s.regs s.capacity = .illegal p ∧
      withValidConfig s k = .next (raiseError .validation s)) ∨
    (∃ len, checkConfig s.regs s.capacity = .legal len ∧
      withValidConfig s k = k (s.setPlaneLen (BitVec.ofNat 32 len))) := by
  unfold withValidConfig
  cases h : checkConfig s.regs s.capacity with
  | illegal p => exact .inl ⟨p, rfl, rfl⟩
  | legal len => exact .inr ⟨len, rfl, rfl⟩

@[simp] theorem source_next_cons (b : Byte) (bs : List Byte) (rest : SourceRest) :
    Source.next { bytes := b :: bs, rest := rest } = some (b, { bytes := bs, rest := rest }) := rfl

@[simp] theorem source_next_cycle (b : Byte) (bs : List Byte) :
    Source.next { bytes := [], rest := .cycle b bs } = some (b, { bytes := bs, rest := .cycle b bs }) := rfl

@[simp] theorem source_next_free (stream pos : Nat) :
    Source.next { bytes := [], rest := .free stream pos } =
      some (Config.freeStreamByte stream pos, { bytes := [], rest := .free stream (pos + 1) }) := rfl

/-- The source has no next byte only where nothing is listed and neither stream that never ends follows. -/
theorem source_next_eq_none {src : Source} (h : src.next = none) :
    src = { bytes := [], rest := .nothing } ∨ src = { bytes := [], rest := .eof } := by
  obtain ⟨bytes, rest⟩ := src
  cases bytes with
  | cons b bs => cases h
  | nil =>
    cases rest with
    | nothing => exact .inl rfl
    | eof => exact .inr rfl
    | cycle b bs => cases h
    | free stream pos => cases h

/-- A read of the source takes the next byte, or raises TruncationError at EOF, or has no step
(20_memory.md R66, 42_rle_decoder.md R146). -/
theorem srcRead_cases (s : State) (k : Byte → State → Result) :
    (∃ b src, s.source.next = some (b, src) ∧ srcRead s k = k b (countByte (s.setSource src))) ∨
    (s.source = { bytes := [], rest := .eof } ∧ srcRead s k = .next (raiseError .truncation s)) ∨
    (s.source = { bytes := [], rest := .nothing } ∧ srcRead s k = .fault .awaitingSource) := by
  unfold srcRead
  rcases h : s.source.next with _ | ⟨b, src⟩
  · rcases source_next_eq_none h with e | e
    · exact .inr (.inr ⟨e, by simp [e]⟩)
    · exact .inr (.inl ⟨e, by simp [e]⟩)
  · exact .inl ⟨b, src, rfl, rfl⟩

/-- The state after the pixel write itself (42_rle_decoder.md R160), for a cursor inside the image. -/
def afterPutPixel (v : Byte) (s : State) : State :=
  let byte := pixelByte s.depth s.imageWidth s.counters.curX.toNat s.counters.curY.toInt.toNat
  let slot := pixelSlot s.depth s.imageWidth s.counters.curX.toNat s.counters.curY.toInt.toNat
  (s.planeWrite byte (insertIndex (s.planeRead byte) slot s.depth v)).setCounters s.counters.countPixel

/-- A pixel write raises BoundsError outside the image, stops where the plane byte does not exist, or writes the
pixel (42_rle_decoder.md R160). -/
theorem putPixel_cases (v : Byte) (s : State) (k : State → Result) :
    (outsideImage s s.counters.curX.toNat s.counters.curY.toInt = true ∧
      putPixel v s k = .next (raiseError .bounds s)) ∨
    (outsideImage s s.counters.curX.toNat s.counters.curY.toInt = false ∧
      ∃ j, s.capacity.toNat ≤ j ∧ putPixel v s k = .fault (.planeAddress j)) ∨
    (outsideImage s s.counters.curX.toNat s.counters.curY.toInt = false ∧
      pixelByte s.depth s.imageWidth s.counters.curX.toNat s.counters.curY.toInt.toNat < s.capacity.toNat ∧
      putPixel v s k = k (afterPutPixel v s)) := by
  unfold putPixel
  split
  · rename_i h; exact .inl ⟨h, rfl⟩
  · rename_i h
    rw [Bool.not_eq_true] at h
    unfold withPixel
    split
    · rename_i hc; exact .inr (.inr ⟨h, hc, rfl⟩)
    · rename_i hc; exact .inr (.inl ⟨h, _, Nat.le_of_not_lt hc, rfl⟩)

/-- A coordinate is inside the image exactly when both bounds hold (41_packing.md R124). -/
theorem outsideImage_false_iff (s : State) (x y : Int) :
    outsideImage s x y = false ↔ (0 ≤ x ∧ x < s.imageWidth) ∧ 0 ≤ y ∧ y < s.imageHeight := by
  simp only [outsideImage, decide_eq_false_iff_not]
  omega

end Sys2Proof.Machine
end

