-- ==== Sys2Proof/Laws/HostBus.lean ====
section
/-! SUPPORT. Where a host access leads, what a plane-window write leaves, and which agent takes the next step. -/

namespace Sys2Proof.Machine

/-! ### Targets -/

/-- CMD of a word is its low four bits. -/
theorem commandField_eq (data : Word) : commandField data = BitVec.ofNat 4 data.toNat := by
  apply BitVec.eq_of_toNat_eq
  simp [commandField]

theorem commandField_eq_zero_iff (data : Word) : commandField data = 0 ↔ data.toNat % 16 = 0 := by
  rw [commandField_eq]
  constructor
  · intro h
    simpa using congrArg BitVec.toNat h
  · intro h
    apply BitVec.eq_of_toNat_eq
    simpa using h

theorem hostTarget_register (s : State) {addr : Word} (h : addr.toNat / 4 < 0x4000) :
    hostTarget s addr = .register (addr.toNat / 4 * 4) := by
  unfold hostTarget wordAddress planeBase
  rw [if_pos (by omega)]

theorem hostTarget_planeWord (s : State) {addr : Word} {k : Nat} (h : addr.toNat / 4 = 0x4000 + k)
    (hk : k < planeWords s) : hostTarget s addr = .planeWord k := by
  have e : (wordAddress addr - planeBase) / 4 = k := by unfold wordAddress planeBase; omega
  unfold hostTarget
  rw [e, if_neg (by unfold wordAddress planeBase; omega), if_pos hk]

theorem hostTarget_unmapped (s : State) {addr : Word} (h : 0x4000 + planeWords s ≤ addr.toNat / 4) :
    hostTarget s addr = .unmapped := by
  unfold hostTarget
  rw [if_neg (by unfold wordAddress planeBase; omega), if_neg (by unfold wordAddress planeBase; omega)]

/-! ### The plane window -/

theorem writeWindowByte_planeRead (s : State) (j n : Nat) (v : Byte) :
    (writeWindowByte s j v).planeRead n = if n = j ∧ j < s.capacity.toNat then v else s.planeRead n := by
  unfold writeWindowByte
  split
  · rw [planeRead_planeWrite]; simp_all
  · simp_all

/-- A window byte changes the plane and nothing else. -/
theorem writeWindowByte_eq (s : State) (j : Nat) (v : Byte) :
    writeWindowByte s j v = { s with plane := (writeWindowByte s j v).plane } := by
  unfold writeWindowByte
  split <;> rfl

@[simp] theorem writeWindowByte_capacity (s : State) (j : Nat) (v : Byte) :
    (writeWindowByte s j v).capacity = s.capacity := by
  rw [writeWindowByte_eq]

@[simp] theorem writeWindowByte_regs (s : State) (j : Nat) (v : Byte) :
    (writeWindowByte s j v).regs = s.regs := by
  rw [writeWindowByte_eq]

@[simp] theorem writeWindowByte_status (s : State) (j : Nat) (v : Byte) :
    (writeWindowByte s j v).status = s.status := by
  rw [writeWindowByte_eq]

theorem writeWindowByte_wf {s : State} (j : Nat) (v : Byte) (h : Memory.wf s.plane = true) :
    Memory.wf (writeWindowByte s j v).plane = true := by
  unfold writeWindowByte
  split
  · exact wf_store j v s.plane h
  · exact h

theorem writeWindowByte_below {s : State} (j : Nat) (v : Byte)
    (h : Memory.below s.capacity.toNat s.plane = true) :
    Memory.below s.capacity.toNat (writeWindowByte s j v).plane = true := by
  unfold writeWindowByte
  split
  · rename_i hj; exact below_store v hj h
  · exact h

/-! ### Which agent takes the next step -/

theorem step_of_no_event {s : State} (h : s.inputs = []) : step s = engineTurn s := by
  simp [step, nextStep, h]

theorem step_of_event {s : State} {e : Event} {rest : List Event} (h : s.inputs = e :: rest)
    (hw : ¬(e = .wait ∧ s.status.busy = true)) : step s = eventStep e (s.setInputs rest) := by
  simp only [step, nextStep, h]
  rw [if_neg hw]

theorem step_of_wait {s : State} {rest : List Event} (h : s.inputs = .wait :: rest) (hb : s.status.busy = true) :
    step s = engineTurn s := by
  simp [step, nextStep, h, hb]

/-! ### The source's events -/

/-- A byte offered changes the offer alone, and only while the source has promised nothing after its bytes (log 10). -/
theorem offerByte_eq (b : Byte) (s : State) :
    offerByte b s =
      s.setSource (if s.source.rest = .nothing then { s.source with bytes := s.source.bytes ++ [b] } else s.source) := by
  unfold offerByte
  split <;> rfl

/-- EOF or an endless stream offered changes the offer alone, and only once (log 10). -/
theorem offerRest_eq (rest : SourceRest) (s : State) :
    offerRest rest s = s.setSource (if s.source.rest = .nothing then { s.source with rest := rest } else s.source) := by
  unfold offerRest
  split <;> rfl

/-- A new stream changes the offer alone, and only while no job reads it (log 10). -/
theorem startStream_eq (s : State) :
    startStream s = s.setSource (if jobRuns s = true then s.source else { bytes := [], rest := .nothing }) := by
  unfold startStream
  split <;> rfl

/-- A job reads the source in every state but IDLE and EXEC. -/
theorem jobRuns_eq_false_iff (s : State) : jobRuns s = false ↔ s.status.state = .idle ∨ s.status.state = .exec := by
  unfold jobRuns
  cases s.status.state <;> simp

end Sys2Proof.Machine
end

