-- ==== Sys2Proof/Laws/Painted.lean ====
section
/-! SUPPORT. The bytes that a run of pixels leaves in the plane: no pixel, one more pixel, and a byte without a pixel
of the run. -/

namespace Sys2Proof.Machine

@[simp] theorem paintedByte_zero (s : State) (value : Nat → Byte) (k : Nat) :
    paintedByte s 0 value k = s.planeRead k := rfl

/-- One more pixel is written last. -/
theorem paintedByte_succ (s : State) (m : Nat) (value : Nat → Byte) (k : Nat) :
    paintedByte s (m + 1) value k =
      if k = pixelByte s.depth s.imageWidth (s.counters.curX.toNat + m) s.counters.curY.toInt.toNat then
        insertIndex (paintedByte s m value k)
          (pixelSlot s.depth s.imageWidth (s.counters.curX.toNat + m) s.counters.curY.toInt.toNat) s.depth (value m)
      else paintedByte s m value k := by
  simp only [paintedByte, List.range_succ, List.foldl_append, List.foldl_cons, List.foldl_nil]

/-- A byte that holds no pixel of the run keeps its value. -/
theorem paintedByte_of_ne {s : State} {m : Nat} {k : Nat} (value : Nat → Byte)
    (h : ∀ i, i < m → k ≠ pixelByte s.depth s.imageWidth (s.counters.curX.toNat + i) s.counters.curY.toInt.toNat) :
    paintedByte s m value k = s.planeRead k := by
  induction m with
  | zero => rfl
  | succ m ih =>
    rw [paintedByte_succ, if_neg (h m (Nat.lt_succ_self m)), ih fun i hi => h i (Nat.lt_succ_of_lt hi)]

/-- The plane after a pixel write is the one pixel painted. -/
theorem planeRead_afterPutPixel (v : Byte) (s : State) (k : Nat) :
    (afterPutPixel v s).planeRead k = paintedByte s 1 (fun _ => v) k := by
  rw [paintedByte_succ, paintedByte_zero]
  show (s.planeWrite _ _).planeRead k = _
  rw [planeRead_planeWrite]
  split <;> simp_all

end Sys2Proof.Machine
end

