-- ==== Sys2Proof/Laws/PerInstr.lean ====
section
/-! SUPPORT. Facts of every instruction, one lemma for each constructor. -/

namespace Sys2Proof.Laws

/-- The encoding of a well-formed instruction is as long as 30_encoding.md R82's table says: the record's bytes, or
none for a command. -/
def EncodedLength.Statement (i : Instr) : Prop :=
  ∀ depth : Nat, i.wf depth = true → (recordBytes i).length = recordLength depth i

namespace EncodedLength

theorem encodedRun (a b : Byte) : Statement (.encodedRun a b) := fun _ _ => rfl
theorem eol : Statement .eol := fun _ _ => rfl
theorem eob : Statement .eob := fun _ _ => rfl
theorem delta (dx dy : Byte) : Statement (.delta dx dy) := fun _ _ => rfl
theorem absolute (b : Byte) (literal : List Byte) : Statement (.absolute b literal) := by
  intro depth h
  simp only [Instr.wf, Bool.and_eq_true, beq_iff_eq] at h
  simp only [recordBytes, encode, recordLength, List.length_cons, h.2]
  omega
theorem nop : Statement .nop := fun _ _ => rfl
theorem clear : Statement .clear := fun _ _ => rfl
theorem decode : Statement .decode := fun _ _ => rfl
theorem getIndex : Statement .getIndex := fun _ _ => rfl
theorem setIndex : Statement .setIndex := fun _ _ => rfl
theorem reserved5 : Statement .reserved5 := fun _ _ => rfl
theorem reserved6 : Statement .reserved6 := fun _ _ => rfl
theorem reserved7 : Statement .reserved7 := fun _ _ => rfl
theorem reserved8 : Statement .reserved8 := fun _ _ => rfl
theorem reserved9 : Statement .reserved9 := fun _ _ => rfl
theorem reserved10 : Statement .reserved10 := fun _ _ => rfl
theorem reserved11 : Statement .reserved11 := fun _ _ => rfl
theorem reserved12 : Statement .reserved12 := fun _ _ => rfl
theorem reserved13 : Statement .reserved13 := fun _ _ => rfl
theorem reserved14 : Statement .reserved14 := fun _ _ => rfl
theorem reserved15 : Statement .reserved15 := fun _ _ => rfl

end EncodedLength

end Sys2Proof.Laws
end

