-- ==== Sys2Proof/Laws/Records.lean ====
section
/-! SUPPORT. What a literal byte, a pixel step and a pixel command can do: one lemma for each. -/

namespace Sys2Proof.Machine

/-! ### Literal bytes -/

/-- The state after a literal byte is stored (42_rle_decoder.md R172). -/
def afterLiteral (r : Byte) (s : State) : State :=
  if s.scratch.fill + 1 = s.scratch.need then
    goTo .absEmit ((s.litWrite s.scratch.fill.toNat r).setScratch
      { s.scratch with fill := s.scratch.fill + 1, i := 0 })
  else (s.litWrite s.scratch.fill.toNat r).setScratch { s.scratch with fill := s.scratch.fill + 1 }

/-- A literal byte is stored, or LIT_BUF has no such byte. -/
theorem latchLiteral_cases (r : Byte) (s : State) :
    (s.scratch.fill.toNat < 256 ∧ latchLiteral r s = .next (afterLiteral r s)) ∨
    (256 ≤ s.scratch.fill.toNat ∧ latchLiteral r s = .fault (.litBufIndex s.scratch.fill.toNat)) := by
  unfold latchLiteral afterLiteral
  by_cases h : s.scratch.fill.toNat < 256
  · refine .inl ⟨h, ?_⟩
    rw [if_pos h]
    exact (apply_ite Host.Outcome.next _ _ _).symm
  · exact .inr ⟨Nat.le_of_not_lt h, if_neg h⟩

/-! ### Pixel steps -/

/-- The state after a RUN step inside the image (R151). -/
def afterRunStep (s : State) : State :=
  let v := extractIndex s.scratch.b (s.scratch.i.toNat % pixelsPerByte s.depth) s.depth
  let u := advX 1 ((afterPutPixel v s).setScratch
    { s.scratch with i := s.scratch.i + 1, left := s.scratch.left - 1 })
  if s.scratch.left - 1 = 0 then goTo .hdrA u else u

/-- The state after an ABS_EMIT step inside the image (R173). -/
def afterAbsEmitStep (s : State) : State :=
  let v := extractIndex (s.litRead (s.scratch.i.toNat / pixelsPerByte s.depth))
    (s.scratch.i.toNat % pixelsPerByte s.depth) s.depth
  let u := advX 1 ((afterPutPixel v s).setScratch { s.scratch with i := s.scratch.i + 1 })
  if s.scratch.i + 1 = s.scratch.count then goTo .hdrA u else u

/-- A RUN step raises BoundsError, stops where the plane byte does not exist, or writes its pixel. -/
theorem runStep_cases (s : State) :
    (outsideImage s s.counters.curX.toNat s.counters.curY.toInt = true ∧
      runStep s = .next (raiseError .bounds s)) ∨
    (outsideImage s s.counters.curX.toNat s.counters.curY.toInt = false ∧
      ∃ j, s.capacity.toNat ≤ j ∧ runStep s = .fault (.planeAddress j)) ∨
    (outsideImage s s.counters.curX.toNat s.counters.curY.toInt = false ∧
      pixelByte s.depth s.imageWidth s.counters.curX.toNat s.counters.curY.toInt.toNat < s.capacity.toNat ∧
      runStep s = .next (afterRunStep s)) := by
  unfold runStep
  rcases putPixel_cases (extractIndex s.scratch.b (s.scratch.i.toNat % pixelsPerByte s.depth) s.depth) s _ with
    ⟨h, e⟩ | ⟨h, j, hj, e⟩ | ⟨h, hc, e⟩
  · exact .inl ⟨h, e⟩
  · exact .inr (.inl ⟨h, j, hj, e⟩)
  · refine .inr (.inr ⟨h, hc, ?_⟩)
    exact e.trans (apply_ite Host.Outcome.next _ _ _).symm

/-- An ABS_EMIT step raises BoundsError, stops where the plane byte does not exist, or writes its pixel. -/
theorem absEmitStep_cases (s : State) :
    (outsideImage s s.counters.curX.toNat s.counters.curY.toInt = true ∧
      absEmitStep s = .next (raiseError .bounds s)) ∨
    (outsideImage s s.counters.curX.toNat s.counters.curY.toInt = false ∧
      ∃ j, s.capacity.toNat ≤ j ∧ absEmitStep s = .fault (.planeAddress j)) ∨
    (outsideImage s s.counters.curX.toNat s.counters.curY.toInt = false ∧
      pixelByte s.depth s.imageWidth s.counters.curX.toNat s.counters.curY.toInt.toNat < s.capacity.toNat ∧
      absEmitStep s = .next (afterAbsEmitStep s)) := by
  unfold absEmitStep
  rcases putPixel_cases (extractIndex (s.litRead (s.scratch.i.toNat / pixelsPerByte s.depth))
      (s.scratch.i.toNat % pixelsPerByte s.depth) s.depth) s _ with
    ⟨h, e⟩ | ⟨h, j, hj, e⟩ | ⟨h, hc, e⟩
  · exact .inl ⟨h, e⟩
  · exact .inr (.inl ⟨h, j, hj, e⟩)
  · refine .inr (.inr ⟨h, hc, ?_⟩)
    exact e.trans (apply_ite Host.Outcome.next _ _ _).symm

/-- The pixel steps that a step which ended the record or the job does not take. -/
theorem pixelSteps_stop (n : Nat) {s : State} (h : s.status.state ≠ .run) (h' : s.status.state ≠ .absEmit) :
    pixelSteps n s = .next s := by
  cases n with
  | zero => rfl
  | succ n => unfold pixelSteps; split <;> first | rfl | contradiction

theorem pixelSteps_run (n : Nat) {s : State} (h : s.status.state = .run) :
    pixelSteps (n + 1) s = andThen (runStep s) (pixelSteps n) := by
  simp [pixelSteps, h]

theorem pixelSteps_absEmit (n : Nat) {s : State} (h : s.status.state = .absEmit) :
    pixelSteps (n + 1) s = andThen (absEmitStep s) (pixelSteps n) := by
  simp [pixelSteps, h]

/-! ### Pixel commands -/

/-- A pixel command raises ValidationError, then BoundsError, then goes on with the pixel's byte and slot, which may
not exist (41_packing.md R124, 60_exceptions.md R207). -/
theorem withIndexedPixel_cases (s : State) (k : State → Nat → Nat → Result) :
    (∃ p, checkConfig s.regs s.capacity = .illegal p ∧
      withIndexedPixel s k = .next (raiseError .validation s)) ∨
    (∃ len, checkConfig s.regs s.capacity = .legal len ∧
      (outsideImage s s.regs.pixX.toNat s.regs.pixY.toNat = true ∧
        withIndexedPixel s k = .next (raiseError .bounds (s.setPlaneLen (BitVec.ofNat 32 len))) ∨
      outsideImage s s.regs.pixX.toNat s.regs.pixY.toNat = false ∧
        withIndexedPixel s k = withPixel s s.regs.pixX.toNat s.regs.pixY.toNat
          (k (s.setPlaneLen (BitVec.ofNat 32 len))))) := by
  unfold withIndexedPixel
  rcases withValidConfig_cases s _ with ⟨p, hp, e⟩ | ⟨len, hl, e⟩
  · exact .inl ⟨p, hp, e⟩
  · refine .inr ⟨len, hl, ?_⟩
    rw [e]
    by_cases h : outsideImage s s.regs.pixX.toNat s.regs.pixY.toNat = true
    · exact .inl ⟨h, if_pos h⟩
    · exact .inr ⟨Bool.not_eq_true _ ▸ h, if_neg h⟩

end Sys2Proof.Machine
end

