-- ==== Sys2Proof/Tests/Slice0.lean ====
section
/-! SUPPORT. The model's own tests: well-formedness, decoding, single steps against the vectors of
95_test_vectors.md, and a witness for the hypotheses of every statement that has some. -/

namespace Sys2Proof.Tests

open Sys2Proof Sys2Proof.Machine

/-! ### Helpers -/

/-- What `f` finds in the next state of a result, if it is one. -/
def after {α : Type} (r : Result) (f : State → α) : Option α :=
  match r with
  | .next s => some (f s)
  | .fault _ => none
  | .refused _ => none

/-- Host registers with the given geometry. -/
def regsOf (d m w h : Nat) : HostRegs where
  depth := BitVec.ofNat 5 d
  mode := BitVec.ofNat 2 m
  width := BitVec.ofNat 32 w
  height := BitVec.ofNat 32 h
  pixX := 0
  pixY := 0
  pixData := 0

/-- A state of a block of 64 plane bytes, the first ones given, with the cursor at (0, H - 1) and S.CMD = 2. -/
def stateOf (d m w h : Nat) (st : EngineState) (plane : List Byte) : State where
  capacity := 64
  regs := regsOf d m w h
  status := { busy := decide (st ≠ .idle), done := false, error := false, ign := false, errCode := .noError, state := st }
  counters := { curX := 0, curY := BitVec.ofInt 32 ((h : Int) - 1), bytesConsumed := 0, pixelsWritten := 0 }
  planeLen := BitVec.ofNat 32 (imageBytes (regsOf d m w h))
  scratch := { cmd := 2, a := 0, b := 0, left := 0, i := 0, count := 0, need := 0, fill := 0, dx := 0 }
  litBuf := []
  plane := (List.range plane.length).map fun k => (k, plane.getD k 0)
  source := { bytes := [], rest := .nothing }
  inputs := []
  readData := 0
  draw := 0

/-- The state with the cursor at (x, y). -/
def atCursor (x : Nat) (y : Int) (s : State) : State :=
  s.setCounters { s.counters with curX := BitVec.ofNat 32 x, curY := BitVec.ofInt 32 y }

/-- The state with operands of the pixel commands. -/
def withPix (x y v : Nat) (s : State) : State :=
  s.setRegs { s.regs with pixX := BitVec.ofNat 32 x, pixY := BitVec.ofNat 32 y, pixData := BitVec.ofNat 8 v }

/-- The state with events still to happen. -/
def withEvents (l : List Event) (s : State) : State := s.setInputs l

/-- The state with bytes and perhaps EOF offered by the source. -/
def withSource (bytes : List Byte) (eof : Bool) (s : State) : State := s.setSource { bytes := bytes, rest := if eof then .eof else .nothing }

/-- The state with a source that offers `b`, `bs` over and over. -/
def withCycle (b : Byte) (bs : List Byte) (s : State) : State := s.setSource { bytes := [], rest := .cycle b bs }

/-- The first `n` plane bytes, the cursor, B and P, and STATUS, as the vectors list them. -/
def view (n : Nat) (s : State) : List Byte × Nat × Int × Nat × Nat × Word :=
  ((List.range n).map s.planeRead, s.counters.curX.toNat, s.counters.curY.toInt, s.counters.bytesConsumed.toNat,
    s.counters.pixelsWritten.toNat, s.status.word)

/-! ### Well-formedness: each check refuses an ill-formed term -/

theorem test_wf_refuses_run_of_zero : Instr.wf 8 (.encodedRun 0 0xAB) = false := by decide
theorem test_wf_refuses_absolute_below_three : Instr.wf 8 (.absolute 2 [0x11, 0x22]) = false := by decide
theorem test_wf_refuses_absolute_without_pad : Instr.wf 8 (.absolute 3 [0x11, 0x22, 0x33]) = false := by decide
theorem test_wf_refuses_absolute_of_other_depth : Instr.wf 4 (.absolute 3 [0x11, 0x22, 0x33, 0x00]) = false := by decide
theorem test_wf_admits :
    Instr.wf 8 (.encodedRun 255 0) = true ∧ Instr.wf 8 (.absolute 3 [0x11, 0x22, 0x33, 0x00]) = true ∧
    Instr.wf 4 (.absolute 3 [0xAB, 0xC0]) = true := by decide

/-! ### Decoding: words written out from 30_encoding.md R82, R85, R90 and the vectors -/

/-- V-R1, 30_encoding.md R82 row 1: a = 0x03, b = 0xAB. -/
theorem test_decode_encoded_run :
    decode 8 (.stream [0x03, 0xAB, 0x00, 0x01]) = .instr (.encodedRun 0x03 0xAB) [0x00, 0x01] := by decide
/-- R82 row 2. -/
theorem test_decode_eol : decode 8 (.stream [0x00, 0x00, 0x01]) = .instr .eol [0x01] := by decide
/-- V-B1, R82 row 3. -/
theorem test_decode_eob : decode 4 (.stream [0x00, 0x01, 0xFF, 0xFF]) = .instr .eob [0xFF, 0xFF] := by decide
/-- V-D2, R82 row 4: byte 2 = dx, byte 3 = dy. -/
theorem test_decode_delta :
    decode 8 (.stream [0x00, 0x02, 0x05, 0x09, 0x00, 0x01]) = .instr (.delta 0x05 0x09) [0x00, 0x01] := by decide
/-- V-X1: N(3, 8) = 4. -/
theorem test_decode_absolute_rle8 :
    decode 8 (.stream [0x00, 0x03, 0x11, 0x22, 0x33, 0x00, 0x00, 0x01]) =
      .instr (.absolute 0x03 [0x11, 0x22, 0x33, 0x00]) [0x00, 0x01] := by decide
/-- V-X3: N(5, 4) = 4. -/
theorem test_decode_absolute_rle4 :
    decode 4 (.stream [0x00, 0x05, 0x12, 0x34, 0x50, 0x00, 0x00, 0x01]) =
      .instr (.absolute 0x05 [0x12, 0x34, 0x50, 0x00]) [0x00, 0x01] := by decide
/-- V-T2, V-T4, V-D4 and V-X7: streams that end inside a record. -/
theorem test_decode_refuses_cut_records :
    decodeRecord 8 [] = .tooShort .noByte ∧ decodeRecord 8 [0x00] = .tooShort .headerCut ∧
    decodeRecord 8 [0x00, 0x02, 0x05] = .tooShort .deltaCut ∧
    decodeRecord 8 [0x00, 0x03, 0x11, 0x22, 0x33] = .tooShort .literalCut := by decide
/-- R90: the sixteen codes; V-K3: bits [31:4] are ignored. -/
theorem test_decode_commands :
    (List.range 16).map (fun n => decode 8 (.ctrl (BitVec.ofNat 32 n))) =
      [.instr .nop [], .instr .clear [], .instr .decode [], .instr .getIndex [], .instr .setIndex [],
       .instr .reserved5 [], .instr .reserved6 [], .instr .reserved7 [], .instr .reserved8 [], .instr .reserved9 [],
       .instr .reserved10 [], .instr .reserved11 [], .instr .reserved12 [], .instr .reserved13 [],
       .instr .reserved14 [], .instr .reserved15 []] ∧
    decode 8 (.ctrl 0x12) = .instr .decode [] := by decide
/-- The table's rows as numbers: the header is a << 8 | b in bits [15:0] (30_encoding.md R81). -/
theorem test_decode_table_words :
    decodeTableWord 16 0x03AB = some (.encodedRun 0x03 0xAB) ∧ decodeTableWord 16 0x0000 = some .eol ∧
    decodeTableWord 16 0x0001 = some .eob ∧ decodeTableWord 32 0x05090002 = some (.delta 0x05 0x09) ∧
    decodeTableWord 16 0x0002 = some (.delta 0 0) ∧ decodeTableWord 16 0x0003 = some (.absolute 3 [0, 0, 0, 0]) ∧
    decodeTableWord 8 0x4 = some .setIndex ∧ decodeTableWord 4 0xF = some .reserved15 := by decide

/-! ### The first step after reset runs the placed instruction -/

/-- Commands, with the reset configuration (10_state.md R47: ValidationError), and NOP (V-K1). -/
theorem test_first_step_commands :
    after (step (State.reset.withFetchWord 4 0)) (fun t => (t.status.word, t.inputs)) = some (0x00, []) ∧
    after (step (State.reset.withFetchWord 4 1)) (fun t => t.status.word) = some 0x14 ∧
    after (step (State.reset.withFetchWord 4 2)) (fun t => t.status.word) = some 0x14 ∧
    after (step (State.reset.withFetchWord 4 3)) (fun t => t.status.word) = some 0x14 ∧
    after (step (State.reset.withFetchWord 4 4)) (fun t => t.status.word) = some 0x14 ∧
    after (step (State.reset.withFetchWord 4 5)) (fun t => t.status.word) = some 0x44 ∧
    after (step (State.reset.withFetchWord 4 15)) (fun t => t.status.word) = some 0x44 := by decide
/-- Records, in an image of no width: a pixel raises BoundsError. -/
theorem test_first_step_records :
    after (step (State.reset.withFetchWord 16 0x03AB)) (fun t => t.status.word) = some 0x34 ∧
    after (step (State.reset.withFetchWord 16 0x0000)) (fun t => (t.status.word, t.counters.curY)) =
      some (0x201, 0xFFFFFFFF) ∧
    after (step (State.reset.withFetchWord 16 0x0001)) (fun t => t.status.word) = some 0x02 ∧
    after (step (State.reset.withFetchWord 16 0x0002)) (fun t => (t.status.word, t.counters.bytesConsumed)) =
      some (0x201, 4) ∧
    after (step (State.reset.withFetchWord 16 0x0003)) (fun t => (t.status.word, t.counters.bytesConsumed)) =
      some (0x34, 6) := by decide

/-! ### Single steps against the vectors -/

/-- V-R2: RLE4 alternates the nibbles, the high one first. -/
theorem test_encoded_run_rle4 :
    after (exec (.encodedRun 0x03 0xAB) (stateOf 4 2 4 1 .hdrA [0, 0])) (view 2) =
      some ([0xAB, 0xA0], 3, 0, 2, 3, 0x201) := by decide
/-- V-R5: the third pixel raises BoundsError, the first two stay. -/
theorem test_encoded_run_overrun :
    after (exec (.encodedRun 0x03 0x55) (stateOf 8 1 2 1 .hdrA [0, 0])) (view 2) =
      some ([0x55, 0x55], 2, 0, 2, 2, 0x34) := by decide
/-- R152's example. -/
theorem test_eol :
    after (exec .eol (atCursor 3 1 (stateOf 8 1 4 2 .hdrA []))) (view 0) = some ([], 0, 0, 2, 0, 0x201) := by decide
/-- V-L4: CURSOR_Y stays at -1. -/
theorem test_eol_saturates :
    after (exec .eol (atCursor 0 (-1) (stateOf 8 1 1 1 .hdrA []))) (view 0) = some ([], 0, -1, 2, 0, 0x201) := by decide
/-- V-B1. -/
theorem test_eob :
    after (exec .eob (stateOf 8 1 2 2 .hdrA [])) (view 0) = some ([], 0, 1, 2, 0, 0x02) := by decide
/-- V-D1. -/
theorem test_delta :
    after (exec (.delta 1 1) (stateOf 8 1 4 3 .hdrA [])) (view 0) = some ([], 1, 1, 4, 0, 0x201) := by decide
/-- V-D2. -/
theorem test_delta_saturates :
    after (exec (.delta 5 9) (stateOf 8 1 2 2 .hdrA [])) (view 0) = some ([], 2, -1, 4, 0, 0x201) := by decide
/-- V-X3. -/
theorem test_absolute_rle4 :
    after (exec (.absolute 5 [0x12, 0x34, 0x50, 0x00]) (stateOf 4 2 5 1 .hdrA [0, 0, 0])) (view 3) =
      some ([0x12, 0x34, 0x50], 5, 0, 6, 5, 0x201) := by decide
/-- V-X8: every literal byte is read, then the third pixel raises BoundsError. -/
theorem test_absolute_overrun :
    after (exec (.absolute 3 [0x11, 0x22, 0x33, 0x00]) (stateOf 8 1 2 1 .hdrA [0, 0])) (view 2) =
      some ([0x11, 0x22], 2, 0, 6, 2, 0x34) := by decide
/-- R103: a NOP write sets no IGN while BUSY = 1. -/
theorem test_nop_while_busy :
    after (step (withEvents [.hostWrite 0 0x10] (stateOf 8 1 2 1 .hdrA []))) (fun t => t.status.word) =
      some 0x201 := by decide
/-- V-C10; the byte after the image is not written. -/
theorem test_clear :
    after (exec .clear (stateOf 1 0 5 4 .exec [1, 2, 3, 4])) (fun t => (t.planeLen.toNat, t.status.word, [0, 1, 2, 3].map t.planeRead)) =
      some (3, 0x02, [0, 0, 0, 4]) := by decide
/-- V-C2. -/
theorem test_clear_illegal_pairing :
    after (exec .clear (stateOf 8 2 4 1 .exec [1, 2])) (view 2) = some ([1, 2], 0, 0, 0, 0, 0x14) := by decide
/-- P1, step 2. -/
theorem test_decode_start :
    after (exec .decode (atCursor 7 7 (stateOf 8 1 4 2 .exec [1, 2, 3, 4, 5, 6, 7, 8]))) (view 8) =
      some ([0, 0, 0, 0, 0, 0, 0, 0], 0, 1, 0, 0, 0x201) := by decide
/-- V-C16. -/
theorem test_decode_mode_zero :
    after (exec .decode (stateOf 8 0 4 1 .exec [9])) (fun t => (t.planeLen.toNat, t.planeRead 0, t.status.word)) =
      some (4, 9, 0x14) := by decide
/-- V-K7. -/
theorem test_get_index :
    after (exec .getIndex (withPix 0 1 0 (stateOf 4 0 3 2 .exec [0, 0xF5, 0]))) (fun t => (t.regs.pixData, t.status.word)) =
      some (0x05, 0x02) := by decide
/-- V-K9. -/
theorem test_get_index_out_of_bounds :
    after (exec .getIndex (withPix 0xFFFFFFFF 0 0x5A (stateOf 8 0 2 2 .exec [0]))) (fun t => (t.regs.pixData, t.status.word)) =
      some (0x5A, 0x34) := by decide
/-- 41_packing.md R126's example. -/
theorem test_set_index :
    after (exec .setIndex (withPix 1 0 0 (stateOf 2 0 4 1 .exec [0xFF]))) (fun t => (t.planeRead 0, t.status.word)) =
      some (0xCF, 0x02) := by decide
/-- V-K10. -/
theorem test_set_index_out_of_bounds :
    after (exec .setIndex (withPix 1 2 7 (stateOf 8 0 2 2 .exec [1, 2, 3, 4]))) (view 4) =
      some ([1, 2, 3, 4], 0, 1, 0, 0, 0x34) := by decide
/-- V-K2, for every reserved code. -/
theorem test_reserved :
    ∀ i ∈ [Instr.reserved5, .reserved6, .reserved7, .reserved8, .reserved9, .reserved10, .reserved11, .reserved12,
      .reserved13, .reserved14, .reserved15],
      after (exec i (stateOf 3 3 0 0 .exec [])) (fun t => t.status.word) = some 0x44 := by decide

/-- V-K4: a command written while BUSY = 1. -/
theorem test_busy_ctrl_write :
    after (step (withEvents [.hostWrite 0 1] (stateOf 8 1 2 1 .hdrA []))) (fun t => t.status.word) = some 0x209 := by
  decide
/-- V-K12. -/
theorem test_window_read :
    after (step (withEvents [.hostRead 0x00010004] (stateOf 8 0 4 2 .idle [0xCD, 0xCD, 0, 0, 0xAB, 0xAB, 0xAB, 0])))
      (fun t => t.readData) = some 0x00ABABAB := by decide
/-- V-K13. -/
theorem test_window_write :
    after (step (withEvents [.hostWrite 0x00010004 0x11223344] (stateOf 8 0 4 2 .idle [])))
      (fun t => [4, 5, 6, 7].map t.planeRead) = some [0x44, 0x33, 0x22, 0x11] := by decide
/-- 41_packing.md R120 and R121: V-E2, V-E3, V-I1 to V-I5 and V-I7. -/
theorem test_extract_insert :
    [0, 1, 2, 3].map (fun s => extractIndex 0xAB s 2) = [2, 2, 2, 3] ∧
    [0, 1].map (fun s => extractIndex 0xAB s 4) = [0xA, 0xB] ∧
    insertIndex 0x00 0 1 1 = 0x80 ∧ insertIndex 0xFF 7 1 0 = 0xFE ∧ insertIndex 0xFF 1 2 0 = 0xCF ∧
    insertIndex 0x12 1 4 0xF = 0x1F ∧ insertIndex 0x12 0 4 0x3C = 0xC2 ∧ insertIndex 0x00 3 2 7 = 0x03 := by decide
/-- 30_encoding.md R85's table. -/
theorem test_padded_length :
    [3, 4, 5, 6, 7, 8, 254, 255].map (paddedLength · 8) = [4, 4, 6, 6, 8, 8, 254, 256] ∧
    [3, 4, 5, 6, 7, 8, 254, 255].map (paddedLength · 4) = [2, 2, 4, 4, 4, 4, 128, 128] := by decide
/-- 42_rle_decoder.md R180 on program P2's stream. -/
theorem test_decode_rle_p2 :
    decodeRLE 6 3 4 [0x00, 0x04, 0x12, 0x34, 0x02, 0x56, 0x00, 0x00, 0x00, 0x02, 0x02, 0x01, 0x03, 0x9A, 0x00, 0x01] =
      (.done, { plane := [0x00, 0x9A, 0x90, 0x00, 0x00, 0x00, 0x12, 0x34, 0x56], x := 5, y := 0, n := 16, px := 9 }) := by
  decide
/-- V-T5: the engine waits where the source offers neither a byte nor EOF. -/
theorem test_waiting_for_the_source :
    step (stateOf 8 1 2 1 .hdrA []) = .fault .awaitingSource := rfl

/-- R181's endless stream: the four steps of one `00 02 00 00` lead back to HDR_A with the cursor as it was. -/
theorem test_endless_stream :
    after (engineSteps 4 (withCycle 0x00 [0x02, 0x00, 0x00] (stateOf 8 1 2 2 .hdrA [])))
      (fun t => (t.source.bytes, t.counters.curY, t.counters.bytesConsumed, t.status.word)) =
      some ([], 1, 4, 0x201) ∧
    after (engineSteps 4 (withCycle 0x00 [0x02, 0x00, 0x00] (stateOf 8 1 2 2 .hdrA []))) (fun t => t.source.rest) =
      some (.cycle 0x00 [0x02, 0x00, 0x00]) := by decide
/-- 20_memory.md R66: a byte offered after EOF is not offered. -/
theorem test_eof_is_sticky :
    after (step (withEvents [.sourceByte 7] (withSource [1] true (stateOf 8 1 2 1 .hdrA [])))) (fun t => t.source) =
      some { bytes := [1], rest := .eof } := by decide

/-! ### Witnesses: for each statement with hypotheses, a state and operands that meet all of them -/

theorem witness_StepRunsTheDecodedRecord :
    let s := withSource [0x03, 0xAB, 0x00, 0x01] true (stateOf 4 2 4 1 .hdrA [0, 0])
    (s.inputs = [] ∧ (withEvents [.wait] s).inputs = .wait :: [] ∧ s.status.busy = true) ∧ s.status.state = .hdrA ∧
      decodeRecord s.depth s.source.bytes = .instr (.encodedRun 0x03 0xAB) [0x00, 0x01] := by decide

theorem witness_StepRunsTheAcceptedCommand :
    let s := stateOf 8 1 4 2 .exec []
    (s.status.state = .exec ∧ s.scratch.cmd ≠ 0 ∧ s.inputs = []) ∧
      ((withEvents [.engine] s).status.state = .exec ∧ (withEvents [.engine] s).inputs = [.engine]) ∧
      (withEvents [.wait] s).inputs = .wait :: [] ∧ s.status.busy = true := by decide

/-- A scheduled turn; and an unscheduled one, with nothing listed and with half a record listed. -/
theorem witness_EngineTurnIsOneEngineStep :
    (withEvents [.engine, .reset] (stateOf 8 1 4 2 .hdrA [])).inputs = .engine :: [.reset] ∧
    (stateOf 8 1 4 2 .run []).inputs = [] ∧ (stateOf 8 1 4 2 .run []).status.state ≠ .hdrA ∧
    (withSource [0x03] true (stateOf 8 1 4 2 .hdrA [])).inputs = [] ∧
    ¬∃ i bytes, decodeRecord 8 (withSource [0x03] true (stateOf 8 1 4 2 .hdrA [])).source.bytes = .instr i bytes :=
  ⟨rfl, rfl, by decide, rfl, fun ⟨_, _, h⟩ => by cases h⟩

theorem witness_EveryEncodedInstructionDecodesToItself :
    Instr.wf 8 .setIndex = true ∧ Instr.wf 8 (.encodedRun 1 0) = true ∧ Instr.wf 4 (.absolute 3 [0xAB, 0xC0]) = true ∧
      Instr.wf 4 (.absolute 255 (List.replicate 128 0)) = true := by
  simp only [Instr.wf, List.length_replicate]
  decide

theorem witness_DecodedRecordsEncodeToTheirBytes :
    decodeRecord 8 [0x00, 0x02, 0x05, 0x09, 0x00] = .instr (.delta 0x05 0x09) [0x00] := by decide

/-- One header for each clause, the least and the greatest where there is a range. -/
theorem witness_HeaderSelectsTheRecordKind :
    (1 : Byte) ≠ 0 ∧ (255 : Byte) ≠ 0 ∧ (3 ≤ (3 : Byte).toNat ∧ [0x11, 0x22, 0x33, 0x00].length = paddedLength (3 : Byte).toNat 8) ∧
      (3 ≤ (255 : Byte).toNat ∧ (List.replicate 128 (0 : Byte)).length = paddedLength (255 : Byte).toNat 4) ∧
      ¬3 ≤ (2 : Byte).toNat := by
  simp only [List.length_replicate]
  decide

theorem witness_PaddedLengthOfAnAbsoluteRun : 255 ≤ 255 ∧ 8 ≤ 8 := by decide

theorem witness_ResetEventRestoresTheResetValues :
    (withEvents [.reset, .wait] (stateOf 8 1 3 1 .absRead [1, 2, 3])).inputs = .reset :: [.wait] := rfl

theorem witness_NopHasNoEffect :
    (3 : Word).toNat / 4 = 0 ∧ (0x10 : Word).toNat % 16 = 0 ∧
      (withEvents [.hostWrite 3 0x10] (stateOf 8 1 3 1 .hdrA [])).inputs = .hostWrite 3 0x10 :: [] := by decide

/-- While idle and while busy. -/
theorem witness_CtrlWriteAcceptsACommand :
    let s := withEvents [.hostWrite 0 0x12] (stateOf 8 1 3 1 .idle [])
    let t := withEvents [.hostWrite 0 0x12] (stateOf 8 1 3 1 .hdrA [])
    (0 : Word).toNat / 4 = 0 ∧ (0x12 : Word).toNat % 16 ≠ 0 ∧ (s.status.busy = false ∧
      s.inputs = .hostWrite 0 0x12 :: []) ∧ t.status.busy = true ∧ t.inputs = .hostWrite 0 0x12 :: [] := by decide

/-- The first clause of BusyHostWritesOnlySetIgn. -/
abbrev setsIgn (s : State) (addr data : Word) : Prop :=
  addr.toNat / 4 = 0 ∧ data.toNat % 16 ≠ 0 ∨ 2 ≤ addr.toNat / 4 ∧ addr.toNat / 4 ≤ 7 ∨
    0x4000 ≤ addr.toNat / 4 ∧ addr.toNat / 4 < 0x4000 + (s.capacity.toNat + 3) / 4

/-- Its second clause. -/
abbrev keepsIgn (s : State) (addr data : Word) : Prop :=
  addr.toNat / 4 = 0 ∧ data.toNat % 16 = 0 ∨ addr.toNat / 4 = 1 ∨ 8 ≤ addr.toNat / 4 ∧ addr.toNat / 4 < 0x4000 ∨
    0x4000 + (s.capacity.toNat + 3) / 4 ≤ addr.toNat / 4

/-- The first clause, at the word addresses where its ranges begin and end, in a block of 64 plane bytes. -/
theorem witness_BusyHostWritesOnlySetIgn :
    let s := stateOf 8 1 3 1 .hdrA []
    s.status.busy = true ∧ (withEvents [.hostWrite 8 7] s).inputs = .hostWrite 8 7 :: [] ∧
      setsIgn s 0 1 ∧ setsIgn s 8 0 ∧ setsIgn s 0x1F 0 ∧ setsIgn s 0x10000 0 ∧ setsIgn s 0x1003F 0 :=
  ⟨rfl, rfl, by decide, by decide, by decide, by decide, by decide⟩

/-- The second clause, likewise. -/
theorem witness_BusyHostWritesOnlySetIgn_else :
    let s := stateOf 8 1 3 1 .hdrA []
    keepsIgn s 0 0xF0 ∧ keepsIgn s 4 0 ∧ keepsIgn s 0x20 0 ∧ keepsIgn s 0xFFFF 0 ∧ keepsIgn s 0x10040 0 ∧
      keepsIgn s 0xFFFFFFFF 0 :=
  ⟨by decide, by decide, by decide, by decide, by decide, by decide⟩

/-- The two clauses of BusyHostWritesOnlySetIgn never meet. -/
theorem clauses_of_BusyHostWritesOnlySetIgn_exclude (s : State) (addr data : Word) (h : setsIgn s addr data) :
    ¬keepsIgn s addr data := by
  unfold setsIgn at h
  unfold keepsIgn
  omega

theorem witness_IdleHostWritesStoreTheRegister :
    (stateOf 8 1 3 1 .idle []).status.busy = false ∧
      (withEvents [.hostWrite 0x0B 0x108] (stateOf 8 1 3 1 .idle [])).inputs = .hostWrite 0x0B 0x108 :: [] ∧
      [0x08, 0x0F, 0x10, 0x14, 0x18, 0x1F].map (fun a : Word => a.toNat / 4) = [2, 3, 4, 5, 6, 7] := by decide

theorem witness_ReadOnlyAndUnmappedWritesAreIgnored :
    let s := stateOf 8 1 3 1 .idle []
    let keeps := fun (addr : Word) =>
      addr.toNat / 4 = 1 ∨ 8 ≤ addr.toNat / 4 ∧ addr.toNat / 4 < 0x4000 ∨
        0x4000 + (s.capacity.toNat + 3) / 4 ≤ addr.toNat / 4
    (withEvents [.hostWrite 4 1] s).inputs = .hostWrite 4 1 :: [] ∧ keeps 4 ∧ keeps 7 ∧ keeps 0x20 ∧ keeps 0xFFFF ∧
      keeps 0x10040 ∧ keeps 0xFFFFFFFF := by decide

theorem witness_PlaneWindowWriteStoresFourBytes :
    let s := withEvents [.hostWrite 0x1003F 0x11223344] (stateOf 8 1 3 1 .idle [])
    s.status.busy = false ∧ s.inputs = .hostWrite 0x1003F 0x11223344 :: [] ∧
      (0x1003F : Word).toNat / 4 = 0x4000 + 15 ∧ 4 * 15 < s.capacity.toNat := by decide

theorem witness_RegisterReadsReturnTheRegisters :
    (withEvents [.hostRead 0xFFFF] (stateOf 8 1 3 1 .run [])).inputs = .hostRead 0xFFFF :: [] ∧
      (0xFFFF : Word).toNat < 0x10000 ∧ (0 : Word).toNat / 4 = 0 ∧ (0x37 : Word).toNat / 4 = 13 := by decide

/-- Every clause of PlaneWindowReadsAreLittleEndian: a word of the plane, one beyond it, one read while BUSY = 1. -/
theorem witness_PlaneWindowReadsAreLittleEndian :
    (withEvents [.hostRead 0x1003C] (stateOf 8 1 3 1 .idle [])).inputs = .hostRead 0x1003C :: [] ∧
      (0x1003C : Word).toNat / 4 = 0x4000 + 15 ∧ (stateOf 8 1 3 1 .idle []).status.busy = false ∧
      ((0x10040 : Word).toNat / 4 = 0x4000 + 16 ∧ (stateOf 8 1 3 1 .idle []).capacity.toNat ≤ 4 * 16) ∧
      (stateOf 8 1 3 1 .run []).status.busy = true := by decide

/-- Both sides of the equivalence have members: V-C10 and V-C9's geometry. -/
theorem witness_ConfigCheckPassesExactlyLegalConfigurations :
    checkConfig (regsOf 1 0 5 4) 64 = .legal 3 ∧ checkConfig (regsOf 8 0 5 4) 16 = .illegal .tooLarge ∧
      checkConfig (regsOf 8 0 5 4) 20 = .legal 20 := by decide

theorem witness_IllegalConfigurationRaisesValidationError :
    let s := stateOf 8 2 4 1 .exec []
    Instr.setIndex ∈ [Instr.clear, .decode, .getIndex, .setIndex] ∧ ¬LegalConfig s.regs s.capacity := by decide

/-- A legal image that fills the whole plane, its last pixel and byte, and an image of one byte more than the plane. -/
theorem witness_ClearZeroFillsTheImage :
    LegalConfig (stateOf 8 1 8 8 .exec []).regs (stateOf 8 1 8 8 .exec []).capacity ∧
      (63 < imageBytes (stateOf 8 1 8 8 .exec []).regs ∧ imageBytes (stateOf 8 1 8 8 .exec []).regs ≤ 64) ∧
      (7 < (stateOf 8 1 8 8 .exec []).imageWidth ∧ 7 < (stateOf 8 1 8 8 .exec []).imageHeight) ∧
      ¬LegalConfig (stateOf 8 1 65 1 .exec []).regs (stateOf 8 1 65 1 .exec []).capacity := by decide

theorem witness_DecodeStartsAtTheBottomLeft :
    LegalDecodeConfig (stateOf 4 2 6 3 .exec []).regs (stateOf 4 2 6 3 .exec []).capacity := by decide

theorem witness_DecodeWithoutCompressionRaisesValidationError :
    let s := stateOf 8 0 4 1 .exec []
    let t := stateOf 4 2 4 1 .exec []
    (LegalConfig s.regs s.capacity ∧ s.regs.mode.toNat = 0) ∧ LegalConfig t.regs t.capacity ∧
      t.regs.mode.toNat ≠ 0 := by decide

/-- The last pixel of the image. -/
theorem witness_GetIndexReadsThePixel :
    let s := withPix 4 1 0 (stateOf 2 0 5 2 .exec [0xC0, 0x60, 0x30])
    LegalConfig s.regs s.capacity ∧ s.regs.pixX.toNat < s.imageWidth ∧ s.regs.pixY.toNat < s.imageHeight ∧
      9 = s.regs.pixY.toNat * s.imageWidth + s.regs.pixX.toNat ∧
      3 = extractIndex (s.planeRead (9 / (8 / s.depth))) (9 % (8 / s.depth)) s.depth := by decide

theorem witness_SetIndexWritesThePixel :
    let s := withPix 4 1 7 (stateOf 2 0 5 2 .exec [0, 0, 0])
    LegalConfig s.regs s.capacity ∧ s.regs.pixX.toNat < s.imageWidth ∧ s.regs.pixY.toNat < s.imageHeight := by decide

/-- One coordinate just outside, for each side. -/
theorem witness_IndexOutsideTheImageRaisesBoundsError :
    let s := withPix 5 0 7 (stateOf 2 0 5 2 .exec [])
    let t := withPix 0 2 7 (stateOf 2 0 5 2 .exec [])
    Instr.getIndex ∈ [Instr.getIndex, .setIndex] ∧ LegalConfig s.regs s.capacity ∧ LegalConfig t.regs t.capacity ∧
      s.imageWidth ≤ s.regs.pixX.toNat ∧ t.imageHeight ≤ t.regs.pixY.toNat := by decide

theorem witness_ReservedCommandsRaiseIllegalCommand :
    Instr.reserved15 ∈ [Instr.reserved5, .reserved6, .reserved7, .reserved8, .reserved9, .reserved10, .reserved11,
      .reserved12, .reserved13, .reserved14, .reserved15] := by decide

theorem witness_ExtractReadsTheLane : 1 ∈ [1, 2, 4, 8] ∧ 7 < 8 / 1 ∧ 8 ∈ [1, 2, 4, 8] ∧ 0 < 8 / 8 := by decide

theorem witness_InsertThenExtractRoundTrip : 2 ∈ [1, 2, 4, 8] ∧ 3 < 8 / 2 ∧ 0 < 8 / 2 ∧ 0 ≠ 3 := by decide

theorem witness_DepthEightPixelsAreBytes : (stateOf 8 1 4 2 .idle []).depth = 8 := by decide

theorem witness_PixelsHaveTheirOwnSlotInTheImage :
    LegalConfig (regsOf 2 0 5 2) 64 ∧ 4 < (regsOf 2 0 5 2).width.toNat ∧ 1 < (regsOf 2 0 5 2).height.toNat ∧
      0 < (regsOf 2 0 5 2).width.toNat := by decide

theorem witness_EngineHasNoStepWithoutByteOrEof :
    ∀ st ∈ [EngineState.hdrA, .hdrB, .deltaX, .deltaY, .absRead],
      (stateOf 8 1 2 1 st []).source = { bytes := [], rest := .nothing } ∧ (stateOf 8 1 2 1 st []).inputs = [] ∧
      (stateOf 8 1 2 1 st []).status.state ∈ [EngineState.hdrA, .hdrB, .deltaX, .deltaY, .absRead] := by decide

theorem witness_EofInAReadingStateRaisesTruncationError :
    ∀ st ∈ [EngineState.hdrA, .hdrB, .deltaX, .deltaY, .absRead],
      (withSource [] true (stateOf 8 1 2 1 st [])).source = { bytes := [], rest := .eof } ∧
      (stateOf 8 1 2 1 st []).status.state ∈ [EngineState.hdrA, .hdrB, .deltaX, .deltaY, .absRead] := by decide

/-- A byte, EOF, and neither, in each state. -/
theorem witness_HeaderAndDeltaStepsTakeTheirByte :
    ∀ st ∈ [EngineState.hdrA, .deltaX, .deltaY],
      (withSource [0x05, 0x09] true (stateOf 8 1 2 1 st [])).source.next =
        some (0x05, { bytes := [0x09], rest := .eof }) ∧
      (withCycle 0x05 [0x09] (stateOf 8 1 2 1 st [])).source.next =
        some (0x05, { bytes := [0x09], rest := .cycle 0x05 [0x09] }) ∧
      (stateOf 8 1 2 1 st []).status.state = st ∧ st ∈ [EngineState.hdrA, .deltaX, .deltaY] ∧
      (withSource [] true (stateOf 8 1 2 1 st [])).source = { bytes := [], rest := .eof } ∧
      (stateOf 8 1 2 1 st []).source = { bytes := [], rest := .nothing } := by decide

/-- One second byte for each record kind; in `stateOf` S.A = 0. -/
theorem witness_HeaderByteSelectsTheNextState :
    (∀ r ∈ [(0 : Byte), 1, 2, 3, 255],
      (withSource [r] true (stateOf 8 1 2 1 .hdrB [])).source.next = some (r, { bytes := [], rest := .eof }) ∧
      (withSource [r] true (stateOf 8 1 2 1 .hdrB [])).status.state = .hdrB ∧
      (withSource [r] true (stateOf 8 1 2 1 .hdrB [])).scratch.a = 0) ∧
    (3 ≤ (3 : Byte).toNat ∧ 3 ≤ (255 : Byte).toNat) ∧
    ((stateOf 8 1 2 1 .hdrB []).setScratch { (stateOf 8 1 2 1 .hdrB []).scratch with a := 1 }).scratch.a ≠ 0 ∧
    (withSource [] true (stateOf 8 1 2 1 .hdrB [])).source = { bytes := [], rest := .eof } := by decide

/-- The last byte of the longest absolute run, and the first byte of the shortest. -/
theorem witness_LiteralByteGoesToTheLiteralBuffer :
    let s := withSource [0x11] true (stateOf 8 1 2 1 .absRead [])
    let last := s.setScratch { s.scratch with fill := 255, need := 256 }
    let first := s.setScratch { s.scratch with fill := 0, need := 2 }
    (last.status.state = .absRead ∧ last.source.next = some (0x11, { bytes := [], rest := .eof }) ∧
      last.scratch.fill.toNat < last.scratch.need.toNat ∧ last.scratch.need.toNat ≤ 256 ∧
      last.scratch.fill.toNat + 1 = last.scratch.need.toNat) ∧
    (first.status.state = .absRead ∧ first.source.next = some (0x11, { bytes := [], rest := .eof }) ∧
      first.scratch.fill.toNat < first.scratch.need.toNat ∧ first.scratch.need.toNat ≤ 256 ∧
      first.scratch.fill.toNat + 1 < first.scratch.need.toNat) ∧
    (withSource [] true first).source = { bytes := [], rest := .eof } := by decide

/-- The last pixel of row 0, in each of the two states. -/
theorem witness_PixelStepWritesOnePixel :
    ∀ st ∈ [EngineState.run, .absEmit],
      let s := atCursor 4 0 (stateOf 4 2 5 2 st [])
      LegalConfig s.regs s.capacity ∧ s.counters.curX.toNat < s.imageWidth ∧ 0 ≤ s.counters.curY.toInt ∧
        s.counters.curY.toInt < s.imageHeight ∧ (s.status.state = .run ∨ s.status.state = .absEmit) := by decide

/-- Just right of the image, and just below it. -/
theorem witness_PixelStepWritesOnePixel_else :
    let s := atCursor 5 0 (stateOf 4 2 5 2 .run [])
    let t := atCursor 0 (-1) (stateOf 4 2 5 2 .absEmit [])
    (s.imageWidth ≤ s.counters.curX.toNat ∧ s.status.state = .run) ∧
      (t.counters.curY.toInt < 0 ∧ t.status.state = .absEmit) := by decide

/-- A saturated cursor, far below the image, and one inside it. -/
theorem witness_CursorMovesSaturateTheUnboundedCursor :
    let s := atCursor 4 (-1) (stateOf 8 1 4 2 .hdrA [])
    let t := stateOf 8 1 4 2 .hdrA []
    (s.counters.curX.toNat = min 9 s.imageWidth ∧ s.counters.curY.toInt = max (-(2 ^ 40)) (-1) ∧
      (-(2 ^ 40) : Int) < s.imageHeight) ∧
    t.counters.curX.toNat = min 0 t.imageWidth ∧ t.counters.curY.toInt = max 1 (-1) ∧ (1 : Int) < t.imageHeight := by
  decide

/-- A run that ends exactly at x = W. -/
theorem witness_EncodedRunWritesItsPixels :
    let s := atCursor 2 0 (stateOf 4 2 5 2 .hdrA [])
    (3 : Byte) ≠ 0 ∧ LegalConfig s.regs s.capacity ∧ 0 ≤ s.counters.curY.toInt ∧
      s.counters.curY.toInt < s.imageHeight ∧ s.counters.curX.toNat + (3 : Byte).toNat ≤ s.imageWidth := by decide

/-- A run one pixel too long, a run at x = W, and a run below row 0. -/
theorem witness_EncodedRunOverrunRaisesBoundsError :
    (∀ x ∈ [3, 5],
      let s := atCursor x 0 (stateOf 4 2 5 2 .hdrA [])
      (3 : Byte) ≠ 0 ∧ LegalConfig s.regs s.capacity ∧ s.counters.curX.toNat ≤ s.imageWidth ∧
        0 ≤ s.counters.curY.toInt ∧ s.counters.curY.toInt < s.imageHeight ∧
        s.imageWidth < s.counters.curX.toNat + (3 : Byte).toNat) ∧
    (let s := atCursor 0 (-1) (stateOf 4 2 5 2 .hdrA []);
      LegalConfig s.regs s.capacity ∧ s.counters.curX.toNat ≤ s.imageWidth ∧ s.counters.curY.toInt < 0) := by decide

theorem witness_AbsoluteRunWritesItsPixels :
    let s := atCursor 2 0 (stateOf 4 2 5 2 .hdrA [])
    3 ≤ (3 : Byte).toNat ∧ [(0xAB : Byte), 0xC0].length = paddedLength (3 : Byte).toNat s.depth ∧
      LegalConfig s.regs s.capacity ∧ 0 ≤ s.counters.curY.toInt ∧ s.counters.curY.toInt < s.imageHeight ∧
      s.counters.curX.toNat + (3 : Byte).toNat ≤ s.imageWidth := by decide

theorem witness_AbsoluteRunOverrunRaisesBoundsError :
    let s := atCursor 3 0 (stateOf 4 2 5 2 .hdrA [])
    let t := atCursor 0 (-1) (stateOf 4 2 5 2 .hdrA [])
    3 ≤ (3 : Byte).toNat ∧ [(0xAB : Byte), 0xC0].length = paddedLength (3 : Byte).toNat s.depth ∧ s.depth = t.depth ∧
      (LegalConfig s.regs s.capacity ∧ s.counters.curX.toNat ≤ s.imageWidth ∧ 0 ≤ s.counters.curY.toInt ∧
        s.counters.curY.toInt < s.imageHeight ∧ s.imageWidth < s.counters.curX.toNat + (3 : Byte).toNat) ∧
      (LegalConfig t.regs t.capacity ∧ t.counters.curX.toNat ≤ t.imageWidth ∧ t.counters.curY.toInt < 0) := by decide

theorem witness_InstructionsKeepTheHostRegisters :
    ∃ t, exec .getIndex (withPix 0 1 0 (stateOf 4 0 3 2 .exec [0, 0xF5, 0])) = .next t := ⟨_, rfl⟩

theorem witness_OnlyDecodeMovesTheCursor :
    Instr.clear ∈ [Instr.nop, .clear, .getIndex, .setIndex, .reserved5, .reserved6, .reserved7, .reserved8, .reserved9,
      .reserved10, .reserved11, .reserved12, .reserved13, .reserved14, .reserved15] ∧
    ∃ t, exec .clear (stateOf 4 0 3 2 .exec [0, 0xF5, 0]) = .next t := ⟨by decide, _, rfl⟩

/-- The first byte after the image. -/
theorem witness_InstructionsWriteOnlyImageBytes :
    let s := stateOf 4 2 3 2 .exec [0, 0xF5, 0, 7]
    LegalConfig s.regs s.capacity ∧ imageBytes s.regs ≤ 3 ∧ ∃ t, exec .clear s = .next t :=
  ⟨by decide, by decide, _, rfl⟩

/-- A source event, and a CTRL write while BUSY = 1. -/
theorem witness_ErrorStaysUntilAcceptanceOrReset :
    let s := stateOf 8 1 2 1 .hdrA [];
    (∃ t, (withEvents [.sourceEof] s).inputs = .sourceEof :: [] ∧ step (withEvents [.sourceEof] s) = .next t) ∧
    (∃ t, (withEvents [.hostWrite 0 1] s).inputs = .hostWrite 0 1 :: [] ∧ s.status.busy = true ∧
      step (withEvents [.hostWrite 0 1] s) = .next t) := ⟨⟨_, rfl, rfl⟩, _, rfl, rfl, rfl⟩

theorem witness_GetIndexAfterSetIndexReturnsTheValue :
    let s := withPix 4 1 7 (stateOf 2 0 5 2 .exec [0, 0, 0])
    LegalConfig s.regs s.capacity ∧ s.regs.pixX.toNat < s.imageWidth ∧ s.regs.pixY.toNat < s.imageHeight := by decide

/-- The two ends of PLANE_CAPACITY's range (00_scope.md R8). -/
theorem witness_ResetSatisfiesTheInvariant :
    (1 ≤ (1 : Word).toNat ∧ (1 : Word).toNat ≤ 2 ^ 32 - 2 ^ 16) ∧
      1 ≤ (0xFFFF0000 : Word).toNat ∧ (0xFFFF0000 : Word).toNat ≤ 2 ^ 32 - 2 ^ 16 := by decide

/-- What the source offers plays no part in the invariant. -/
theorem inv_setSource {s : State} (h : Inv s) (src : Source) : Inv (s.setSource src) :=
  ⟨h.capacity, h.busyState, h.doneError, h.busyClear, h.errorCode, h.execCommand,
    fun hj => ⟨(h.job hj).command, (h.job hj).config, (h.job hj).planeLen, (h.job hj).cursor, (h.job hj).written,
      (h.job hj).scratch⟩,
    h.planeWf, h.planeBelow, h.litWf, h.litBelow⟩

theorem inv_withSource {s : State} (h : Inv s) (bytes : List Byte) (eof : Bool) : Inv (withSource bytes eof s) :=
  inv_setSource h _

/-- A decode at the start of a record satisfies the invariant. -/
theorem inv_of_hdrA : Inv (stateOf 4 2 6 3 .hdrA [0, 0]) where
  capacity := by decide
  busyState := by decide
  doneError := by decide
  busyClear := by decide
  errorCode := by decide
  execCommand := by decide
  job := fun _ =>
    { command := rfl, config := by decide, planeLen := by decide, cursor := by decide, written := by decide,
      scratch := trivial }
  planeWf := by decide
  planeBelow := by decide
  litWf := by decide
  litBelow := by decide

/-- An accepted DECODE satisfies the invariant. -/
theorem inv_of_exec : Inv (stateOf 4 2 6 3 .exec [1, 2]) where
  capacity := by decide
  busyState := by decide
  doneError := by decide
  busyClear := by decide
  errorCode := by decide
  execCommand := by decide
  job := fun h => by cases h
  planeWf := by decide
  planeBelow := by decide
  litWf := by decide
  litBelow := by decide

/-- An idle block satisfies the invariant. -/
theorem inv_of_idle : Inv (stateOf 4 2 6 3 .idle []) where
  capacity := by decide
  busyState := by decide
  doneError := by decide
  busyClear := by decide
  errorCode := by decide
  execCommand := by decide
  job := fun h => by cases h
  planeWf := by decide
  planeBelow := by decide
  litWf := by decide
  litBelow := by decide

theorem witness_EveryStepKeepsTheInvariant :
    Inv (withSource [0x02, 0x56] false (stateOf 4 2 6 3 .hdrA [0, 0])) ∧
      ∃ t, step (withSource [0x02, 0x56] false (stateOf 4 2 6 3 .hdrA [0, 0])) = .next t :=
  ⟨inv_withSource inv_of_hdrA _ _, _, rfl⟩

/-- A RUN step that writes a pixel, and the decode goes on. -/
theorem witness_DecodeWritesPixelsInOrderAndNoneTwice :
    let s := stateOf 4 2 6 3 .run [0, 0, 0, 0, 0, 0, 0]
    let u := s.setScratch { s.scratch with a := 2, b := 0x56, left := 2 }
    Inv u ∧ jobRuns u = true ∧ ∃ t, engineStep u = .next t ∧ jobRuns t = true ∧
      t.counters.pixelsWritten ≠ u.counters.pixelsWritten :=
  ⟨{ capacity := by decide
     busyState := by decide
     doneError := by decide
     busyClear := by decide
     errorCode := by decide
     execCommand := by decide
     job := fun _ =>
      { command := rfl, config := by decide, planeLen := by decide, cursor := by decide, written := by decide,
        scratch := ⟨by decide, by decide, by decide⟩ }
     planeWf := by decide
     planeBelow := by decide
     litWf := by decide
     litBelow := by decide }, rfl, _, rfl, rfl, by decide⟩

/-- A state for each of the two stops, and one that steps. -/
theorem witness_StepsStopOnlyWhereTheBlockWaits :
    (Inv (withSource [] false (stateOf 4 2 6 3 .hdrA [0, 0])) ∧
      step (withSource [] false (stateOf 4 2 6 3 .hdrA [0, 0])) = .fault .awaitingSource) ∧
    (Inv (stateOf 4 2 6 3 .idle []) ∧ step (stateOf 4 2 6 3 .idle []) = .fault .awaitingHost) ∧
    ∃ t, step (withSource [0x02] false (stateOf 4 2 6 3 .hdrA [0, 0])) = .next t :=
  ⟨⟨inv_withSource inv_of_hdrA _ _, rfl⟩, ⟨inv_of_idle, rfl⟩, _, rfl⟩

theorem witness_PixelsWrittenNeverExceedsTheImage :
    Inv (withSource [] true (stateOf 4 2 6 3 .hdrA [0, 0])) ∧
      jobRuns (withSource [] true (stateOf 4 2 6 3 .hdrA [0, 0])) = true := ⟨inv_withSource inv_of_hdrA _ _, rfl⟩

theorem witness_RecordIsItsEngineSteps :
    let s := withSource ([0x00, 0x04, 0x12, 0x34] ++ [0x00, 0x01]) true (stateOf 4 2 6 3 .hdrA [0, 0])
    Inv s ∧ s.status.state = .hdrA ∧ Instr.wf s.depth (.absolute 4 [0x12, 0x34]) = true ∧
      recordBytes (.absolute 4 [0x12, 0x34]) ≠ [] ∧
      s.source.bytes = recordBytes (.absolute 4 [0x12, 0x34]) ++ [0x00, 0x01] :=
  ⟨inv_withSource inv_of_hdrA _ _, rfl, by decide, by decide, rfl⟩

theorem witness_WholeDecodeIsTheSpecFunction :
    let s := withSource [0x02, 0x56, 0x00, 0x01] true (stateOf 4 2 6 3 .exec [1, 2])
    Inv s ∧ s.status.state = .exec ∧ s.scratch.cmd = 2 ∧ LegalDecodeConfig s.regs s.capacity ∧
      s.source = { bytes := [0x02, 0x56, 0x00, 0x01], rest := .eof } ∧
      (decodeRLE s.imageWidth s.imageHeight s.depth [0x02, 0x56, 0x00, 0x01]).1 = .done :=
  ⟨inv_withSource inv_of_exec _ _, rfl, rfl, by decide, rfl, by decide⟩

/-- A finite stream of no bytes, the endless repetition of a delta, and a source that offers nothing. -/
theorem witness_DecodeOfAFiniteStreamEnds :
    let s := withSource [] true (stateOf 4 2 6 3 .exec [1, 2])
    let t := withCycle 0x00 [0x02, 0x00, 0x00] (stateOf 4 2 6 3 .hdrA [0, 0])
    (Inv s ∧ s.status.state = .exec ∧ s.scratch.cmd = 2 ∧ s.source.rest = .eof) ∧
    (Inv t ∧ t.status.state = .hdrA ∧ t.source = { bytes := [], rest := .cycle 0x00 [0x02, 0x00, 0x00] }) ∧
    (stateOf 4 2 6 3 .absRead []).source = { bytes := [], rest := .nothing } :=
  ⟨⟨inv_withSource inv_of_exec _ _, rfl, rfl, rfl⟩, ⟨inv_setSource inv_of_hdrA _, rfl, rfl⟩, rfl⟩

/-- One state for each event, while the source has offered no end and after it has. -/
theorem witness_SourceEventsChangeTheOfferAndWaitLetsTheEngineRun :
    let s := stateOf 4 2 6 3 .hdrA []
    let t := stateOf 4 2 6 3 .idle []
    ((withEvents [.sourceByte 7] s).inputs = .sourceByte 7 :: [] ∧ (withEvents [.sourceEof] s).inputs = .sourceEof :: [] ∧
      (withEvents [.sourceCycle 7 []] s).inputs = .sourceCycle 7 [] :: [] ∧
      (withEvents [.sourceFree 1] s).inputs = .sourceFree 1 :: [] ∧
      (withEvents [.sourceStart] s).inputs = .sourceStart :: [] ∧ (withEvents [.wait] s).inputs = .wait :: []) ∧
    (s.source.rest = .nothing ∧ (withSource [] true s).source.rest ≠ .nothing) ∧
    s.status.busy = true ∧ t.status.busy = false ∧ t.status.state = .idle := by decide

end Sys2Proof.Tests
end

section
/-! 30_encoding.md R82 and R85: the padded length of an absolute run, and the record that each header begins. -/

namespace Sys2Proof

/-! ### The padded length -/

theorem sizeFromWidth_eq (b depth : Nat) : sizeFromWidth b depth = (b * depth + 7) / 8 := rfl

/-- The padding is at most one byte: it makes the count of bytes even. -/
theorem paddedLength_eq_size_add_parity (b depth : Nat) :
    paddedLength b depth = sizeFromWidth b depth + sizeFromWidth b depth % 2 := by
  unfold paddedLength ceilDiv
  omega

theorem paddedLength_even (b depth : Nat) : paddedLength b depth % 2 = 0 := Nat.mul_mod_right 2 _

theorem sizeFromWidth_eight (b : Nat) : sizeFromWidth b 8 = b := by
  rw [sizeFromWidth_eq]
  omega

theorem sizeFromWidth_four (b : Nat) : sizeFromWidth b 4 = (b + 1) / 2 := by
  rw [sizeFromWidth_eq]
  omega

theorem paddedLength_mono {b b' depth depth' : Nat} (hb : b ≤ b') (hd : depth ≤ depth') :
    paddedLength b depth ≤ paddedLength b' depth' := by
  have size_le : sizeFromWidth b depth ≤ sizeFromWidth b' depth' :=
    Nat.div_le_div_right (Nat.add_le_add_right (Nat.mul_le_mul hb hd) 7)
  unfold paddedLength ceilDiv
  omega

/-- Settles O8: N is the size made even by its parity, and it grows with the count and the depth. -/
theorem paddedLengthOfAnAbsoluteRun : Obligations.PaddedLengthOfAnAbsoluteRun := by
  unfold Obligations.PaddedLengthOfAnAbsoluteRun
  have largest : paddedLength 255 8 = 256 := by decide
  refine ⟨fun _ _ => rfl, fun b => ?depth8, fun b => ?depth4, fun b depth => ⟨paddedLength_even b depth, ?bounds⟩,
    largest, fun _ _ hb hd => largest ▸ paddedLength_mono hb hd⟩
  case depth8 => rw [paddedLength_eq_size_add_parity, sizeFromWidth_eight]
  case depth4 =>
    rw [paddedLength_eq_size_add_parity, sizeFromWidth_four]
    omega
  case bounds =>
    rw [paddedLength_eq_size_add_parity, sizeFromWidth_eq]
    omega

/-! ### The record of a header -/

theorem decodeRecord_header (depth : Nat) (a b : Byte) (rest : List Byte) :
    decodeRecord depth (a :: b :: rest) = decodeAfterHeader depth a b rest := rfl

theorem decodeRecord_encodedRun (depth : Nat) {a : Byte} (b : Byte) (rest : List Byte) (ha : a ≠ 0) :
    decodeRecord depth (a :: b :: rest) = .instr (.encodedRun a b) rest := if_pos ha

theorem decodeRecord_eol (depth : Nat) (rest : List Byte) :
    decodeRecord depth (0 :: 0 :: rest) = .instr .eol rest := rfl

theorem decodeRecord_eob (depth : Nat) (rest : List Byte) :
    decodeRecord depth (0 :: 1 :: rest) = .instr .eob rest := rfl

theorem decodeRecord_delta (depth : Nat) (dx dy : Byte) (rest : List Byte) :
    decodeRecord depth (0 :: 2 :: dx :: dy :: rest) = .instr (.delta dx dy) rest := rfl

/-- A count of 3 or more is none of the three escape selectors. -/
theorem ne_selector_of_three_le {b : Byte} (hb : 3 ≤ b.toNat) : b ≠ 0 ∧ b ≠ 1 ∧ b ≠ 2 := by
  refine ⟨?_, ?_, ?_⟩ <;> rintro rfl <;> exact absurd hb (by decide)

/-- A literal of exactly N(b, depth) bytes is what the decoder takes of the stream. -/
theorem decodeRecord_absolute {depth : Nat} {b : Byte} {literal : List Byte} (rest : List Byte) (hb : 3 ≤ b.toNat)
    (hlen : literal.length = paddedLength b.toNat depth) :
    decodeRecord depth (0 :: b :: (literal ++ rest)) = .instr (.absolute b literal) rest := by
  obtain ⟨h0, h1, h2⟩ := ne_selector_of_three_le hb
  have fits : paddedLength b.toNat depth ≤ (literal ++ rest).length := by simp [← hlen]
  rw [decodeRecord_header]
  unfold decodeAfterHeader
  rw [if_neg (not_not_intro rfl), if_neg h0, if_neg h1, if_neg h2, if_pos fits, List.take_left' hlen,
    List.drop_left' hlen]

/-- Settles O7: one lemma for each row of 30_encoding.md R82. -/
theorem headerSelectsTheRecordKind : Obligations.HeaderSelectsTheRecordKind := by
  unfold Obligations.HeaderSelectsTheRecordKind
  intro depth a b dx dy literal rest
  refine ⟨decodeRecord_encodedRun depth b rest, ?eol, ?eob, ?delta, ?absolute⟩
  case eol => rintro rfl rfl; exact decodeRecord_eol depth rest
  case eob => rintro rfl rfl; exact decodeRecord_eob depth rest
  case delta => rintro rfl rfl; exact decodeRecord_delta depth dx dy rest
  case absolute => rintro rfl hb hlen; exact decodeRecord_absolute rest hb hlen

end Sys2Proof
end

section
/-! 40_commands.md R101 and R104: what a legal configuration gives, the zero fill, and CLEAR. -/

namespace Sys2Proof.Machine

/-! ### Legal configurations -/

/-- None of the checks of 40_commands.md R101 fails on a legal configuration. -/
theorem checkConfig_of_legal {r : HostRegs} {capacity : Word} (h : LegalConfig r capacity) :
    checkConfig r capacity = .legal (imageBytes r) := by
  obtain ⟨depth, mode, rle8, rle4, width, height, fits⟩ := h
  unfold checkConfig
  rw [if_neg (by bv_omega), if_neg (by bv_omega), if_neg (by bv_omega), if_neg (by omega), if_neg (by omega),
    if_neg (Nat.not_lt.mpr fits)]

/-- A configuration that passes every check of 40_commands.md R101 is legal. -/
theorem legalConfig_of_checkConfig {r : HostRegs} {capacity : Word} {len : Nat}
    (h : checkConfig r capacity = .legal len) : LegalConfig r capacity := by
  unfold checkConfig at h
  split_ifs at h with depth mode pairing width height fits
  exact ⟨by bv_omega, by bv_omega, by bv_omega, by bv_omega, by omega, by omega, Nat.not_lt.mp fits⟩

theorem withValidConfig_of_legal {s : State} (h : LegalConfig s.regs s.capacity) (k : State → Result) :
    withValidConfig s k = k (s.setPlaneLen (BitVec.ofNat 32 (imageBytes s.regs))) := by
  unfold withValidConfig
  rw [checkConfig_of_legal h]

theorem withValidConfig_of_illegal {s : State} (h : ¬LegalConfig s.regs s.capacity) (k : State → Result) :
    withValidConfig s k = .next (raiseError .validation s) := by
  rcases withValidConfig_cases s k with ⟨_, _, raised⟩ | ⟨_, passed, _⟩
  · exact raised
  · exact absurd (legalConfig_of_checkConfig passed) h

/-- A legal image fits in the plane, so PLANE_LEN holds its length without wrapping. -/
theorem toNat_ofNat_imageBytes {r : HostRegs} {capacity : Word} (h : LegalConfig r capacity) :
    (BitVec.ofNat 32 (imageBytes r)).toNat = imageBytes r := by
  obtain ⟨_, _, _, _, _, _, fits⟩ := h
  exact Nat.mod_eq_of_lt (Nat.lt_of_le_of_lt fits capacity.isLt)

/-! ### Pixels of the image -/

theorem pixelsPerByte_pos {s : State} (h : LegalConfig s.regs s.capacity) : 0 < pixelsPerByte s.depth := by
  obtain ⟨depth, _⟩ := h
  have bounds : 1 ≤ s.regs.depth.toNat ∧ s.regs.depth.toNat ≤ 8 := by omega
  exact Nat.div_pos bounds.2 bounds.1

/-- Row `y` ends at or before the last row does. -/
theorem pixelNumber_lt {width height x y : Nat} (hx : x < width) (hy : y < height) :
    pixelNumber width x y < width * height :=
  calc y * width + x < (y + 1) * width := by rw [Nat.succ_mul]; omega
    _ ≤ height * width := Nat.mul_le_mul_right width hy
    _ = width * height := Nat.mul_comm height width

theorem div_lt_ceilDiv {p n q : Nat} (hp : p < n) (hq : 0 < q) : p / q < ceilDiv n q :=
  calc p / q < (p + q) / q := by rw [Nat.add_div_right p hq]; exact Nat.lt_succ_self _
    _ ≤ (n + q - 1) / q := Nat.div_le_div_right (by omega)

/-- Every pixel of the image lies in one of the image's bytes (41_packing.md R122). -/
theorem pixelByte_lt_imageBytes {s : State} {x y : Nat} (h : LegalConfig s.regs s.capacity) (hx : x < s.imageWidth)
    (hy : y < s.imageHeight) : pixelByte s.depth s.imageWidth x y < imageBytes s.regs :=
  div_lt_ceilDiv (pixelNumber_lt hx hy) (pixelsPerByte_pos h)

@[simp] theorem extractIndex_zero (slot depth : Nat) : extractIndex 0 slot depth = 0 := by
  simp [extractIndex]

/-! ### CLEAR -/

theorem planeRead_zeroFill (s : State) (k : Nat) :
    (zeroFill s).planeRead k = if k < s.planeLen.toNat then 0 else s.planeRead k := by
  simp only [State.planeRead, zeroFill, State.setPlane_plane, State.setPlane_draw, lookup_fill]
  split <;> rfl

theorem exec_clear (s : State) : exec .clear s = withValidConfig s fun t => .next (finish (zeroFill t)) := rfl

/-- The state after CLEAR of a legal configuration (40_commands.md R104). -/
def afterClear (s : State) : State := finish (zeroFill (s.setPlaneLen (BitVec.ofNat 32 (imageBytes s.regs))))

theorem exec_clear_of_legal {s : State} (h : LegalConfig s.regs s.capacity) : exec .clear s = .next (afterClear s) := by
  rw [exec_clear, withValidConfig_of_legal h]
  rfl

theorem exec_clear_of_illegal {s : State} (h : ¬LegalConfig s.regs s.capacity) :
    exec .clear s = .next (raiseError .validation s) := by
  rw [exec_clear, withValidConfig_of_illegal h]

theorem planeRead_afterClear {s : State} (h : LegalConfig s.regs s.capacity) (k : Nat) :
    (afterClear s).planeRead k = if k < imageBytes s.regs then 0 else s.planeRead k := by
  have filled := planeRead_zeroFill (s.setPlaneLen (BitVec.ofNat 32 (imageBytes s.regs))) k
  rw [State.setPlaneLen_planeLen, toNat_ofNat_imageBytes h] at filled
  exact filled

/-- CLEAR changes neither the geometry nor the depth, so each pixel is still the index in its own byte. -/
theorem pixel_afterClear {s : State} (h : LegalConfig s.regs s.capacity) {x y : Nat} (hx : x < s.imageWidth)
    (hy : y < s.imageHeight) : (afterClear s).pixel x y = 0 := by
  have zero : (afterClear s).planeRead (pixelByte s.depth s.imageWidth x y) = 0 := by
    rw [planeRead_afterClear h, if_pos (pixelByte_lt_imageBytes h hx hy)]
  calc (afterClear s).pixel x y
      = extractIndex ((afterClear s).planeRead (pixelByte s.depth s.imageWidth x y))
          (pixelSlot s.depth s.imageWidth x y) s.depth := rfl
    _ = 0 := by rw [zero, extractIndex_zero]

/-- Settles O22: CLEAR validates, then fills exactly the image's bytes. -/
theorem clearZeroFillsTheImage : Obligations.ClearZeroFillsTheImage := by
  unfold Obligations.ClearZeroFillsTheImage
  intro s
  refine ⟨exec_clear_of_illegal, fun legal => ⟨afterClear s, exec_clear_of_legal legal, rfl,
    toNat_ofNat_imageBytes legal, ?image, fun _ _ => pixel_afterClear legal, ?above⟩⟩
  case image =>
    intro k hk
    rw [planeRead_afterClear legal, if_pos hk]
  case above =>
    intro k hk
    rw [planeRead_afterClear legal, if_neg (Nat.not_lt.mpr hk)]

end Sys2Proof.Machine
end

section
/-! 40_commands.md R100, R103 and R105: writes of CTRL, NOP, and the reserved commands. -/

namespace Sys2Proof.Machine

/-! ### A host write as a step -/

/-- The command NOP and the write of CTRL that gives it leave the same state (40_commands.md R103). -/
theorem hostWriteStep_eq (addr data : Word) (s : State) :
    hostWriteStep addr data s = .next (hostWriteState s addr data) := by
  unfold hostWriteStep
  split
  next nop =>
    simp only [isNopWrite, Bool.and_eq_true, decide_eq_true_eq] at nop
    obtain ⟨ctrl, cmd⟩ := nop
    have unchanged : hostWriteState s addr data = s := by
      unfold hostWriteState
      rw [ctrl]
      exact if_pos cmd
    rw [unchanged]
    rfl
  next => rfl

theorem step_of_hostWrite {s : State} {addr data : Word} {rest : List Event}
    (h : s.inputs = .hostWrite addr data :: rest) : step s = .next (hostWriteState (s.setInputs rest) addr data) := by
  rw [step_of_event h (by simp)]
  exact hostWriteStep_eq addr data _

/-! ### CTRL -/

theorem hostWriteState_ctrl (s : State) {addr : Word} (data : Word) (h : addr.toNat / 4 = 0) :
    hostWriteState s addr data = writeCtrl s data := by
  unfold hostWriteState
  rw [hostTarget_register s (by omega), h]
  rfl

theorem writeCtrl_nop (s : State) {data : Word} (h : data.toNat % 16 = 0) : writeCtrl s data = s :=
  if_pos ((commandField_eq_zero_iff data).mpr h)

theorem writeCtrl_command (s : State) {data : Word} (h : data.toNat % 16 ≠ 0) :
    writeCtrl s data = unlessBusy s (accept (BitVec.ofNat 4 data.toNat) s) := by
  unfold writeCtrl
  rw [if_neg (mt (commandField_eq_zero_iff data).mp h), commandField_eq]

theorem unlessBusy_idle {s : State} (stored : State) (h : s.status.busy = false) : unlessBusy s stored = stored :=
  if_neg (Bool.eq_false_iff.mp h)

theorem unlessBusy_busy {s : State} (stored : State) (h : s.status.busy = true) :
    unlessBusy s stored = markIgnored s := if_pos h

/-- Settles O11: a write of CTRL with CMD = 0 ends before BUSY is looked at. -/
theorem nopHasNoEffect : Obligations.NopHasNoEffect := by
  unfold Obligations.NopHasNoEffect
  refine ⟨fun _ => rfl, fun s addr data rest ctrl nop event => ?_⟩
  rw [step_of_hostWrite event, hostWriteState_ctrl _ data ctrl, writeCtrl_nop _ nop]
  rfl

/-- Settles O12: a write of CTRL with another CMD is one acceptance, or one ignored write, by BUSY. -/
theorem ctrlWriteAcceptsACommand : Obligations.CtrlWriteAcceptsACommand := by
  unfold Obligations.CtrlWriteAcceptsACommand
  intro s addr data rest ctrl command event
  rw [step_of_hostWrite event, hostWriteState_ctrl _ data ctrl, writeCtrl_command _ command]
  refine ⟨fun idle => ?accepted, fun busy => ?ignored⟩
  case accepted =>
    rw [unlessBusy_idle (s := s.setInputs rest) _ idle]
    rfl
  case ignored =>
    rw [unlessBusy_busy (s := s.setInputs rest) _ busy]
    rfl

/-! ### The reserved commands -/

/-- The eleven reserved codes have one meaning (40_commands.md R105). -/
theorem exec_reserved (i : Instr) (s : State)
    (h : i ∈ [Instr.reserved5, .reserved6, .reserved7, .reserved8, .reserved9, .reserved10, .reserved11, .reserved12,
      .reserved13, .reserved14, .reserved15]) : exec i s = illegalCommand s := by
  simp only [List.mem_cons, List.not_mem_nil, or_false] at h
  rcases h with rfl | rfl | rfl | rfl | rfl | rfl | rfl | rfl | rfl | rfl | rfl <;> rfl

/-- Settles O28: the one meaning raises IllegalCommand and does not validate. -/
theorem reservedCommandsRaiseIllegalCommand : Obligations.ReservedCommandsRaiseIllegalCommand := by
  unfold Obligations.ReservedCommandsRaiseIllegalCommand
  intro i s reserved
  rw [exec_reserved i s reserved]
  rfl

end Sys2Proof.Machine
end

section
/-! 41_packing.md R120, R121, R127 and R128: the lanes of a byte, bit by bit. -/

namespace Sys2Proof.Machine

/-! ### The bits of a slot -/

/-- The slot whose lane holds bit `k` of a byte; slot 0 holds bit 7 (41_packing.md R123). -/
def slotOfBit (depth k : Nat) : Nat := (7 - k) / depth

/-- A slot of a byte ends at or before bit 0. -/
theorem lane_fits {slot depth : Nat} (h : slot < 8 / depth) : depth * slot + depth ≤ 8 :=
  calc depth * (slot + 1) ≤ depth * (8 / depth) := Nat.mul_le_mul_left depth h
    _ ≤ 8 := Nat.mul_div_le 8 depth

theorem slotShift_eq (slot depth : Nat) : slotShift slot depth = 8 - (depth * slot + depth) := rfl

/-- The lane of a slot is the `depth` bits from its shift upwards. -/
theorem slotOfBit_eq_iff {slot depth k : Nat} (h : slot < 8 / depth) (hk : k < 8) :
    slotOfBit depth k = slot ↔ slotShift slot depth ≤ k ∧ k < slotShift slot depth + depth := by
  have positive : 0 < depth := Nat.pos_of_ne_zero fun zero => by simp [zero] at h
  have fits := lane_fits h
  rw [slotOfBit, Nat.div_eq_iff positive, slotShift_eq, Nat.mul_comm slot depth]
  omega

/-- Bit `j` of an index stands in the byte, in the lane of its slot. -/
theorem slotOfBit_slotShift_add {slot depth j : Nat} (h : slot < 8 / depth) (hj : j < depth) :
    slotShift slot depth + j < 8 ∧ slotOfBit depth (slotShift slot depth + j) = slot := by
  have fits := lane_fits h
  have inByte : slotShift slot depth + j < 8 := by rw [slotShift_eq]; omega
  exact ⟨inByte, (slotOfBit_eq_iff h inByte).mpr (by omega)⟩

/-- At the four depths the slots cover the byte. -/
theorem slotOfBit_lt {depth k : Nat} (h : depth ∈ [1, 2, 4, 8]) : slotOfBit depth k < 8 / depth := by
  have divides : depth ∣ 8 ∧ 0 < depth := by
    simp only [List.mem_cons, List.not_mem_nil, or_false] at h
    rcases h with rfl | rfl | rfl | rfl <;> decide
  rw [slotOfBit, Nat.div_lt_iff_lt_mul divides.2, Nat.div_mul_cancel divides.1]
  omega

/-! ### The bits of Extract and Insert -/

theorem getLsbD_indexMask (depth j : Nat) : (indexMask depth).getLsbD j = (decide (j < 8) && decide (j < depth)) := by
  rw [indexMask, BitVec.getLsbD_ofNat, Nat.testBit_two_pow_sub_one]

theorem getLsbD_extractIndex (byte : Byte) (slot depth j : Nat) :
    (extractIndex byte slot depth).getLsbD j = (decide (j < depth) && byte.getLsbD (slotShift slot depth + j)) := by
  rw [extractIndex, BitVec.getLsbD_and, BitVec.getLsbD_ushiftRight, getLsbD_indexMask]
  by_cases hj : j < 8
  · simp [hj, Bool.and_comm]
  · have beyond : byte.getLsbD (slotShift slot depth + j) = false := BitVec.getLsbD_of_ge _ _ (by omega)
    simp [beyond]

/-- Insert takes the bits of its slot's lane from the value and every other bit from the byte. -/
theorem getLsbD_insertIndex (byte v : Byte) {slot depth k : Nat} (h : slot < 8 / depth) (hk : k < 8) :
    (insertIndex byte slot depth v).getLsbD k =
      if slotOfBit depth k = slot then v.getLsbD (k - slotShift slot depth) else byte.getLsbD k := by
  simp only [insertIndex, BitVec.getLsbD_or, BitVec.getLsbD_and, BitVec.getLsbD_not, BitVec.getLsbD_shiftLeft,
    getLsbD_indexMask, slotOfBit_eq_iff h hk]
  by_cases above : slotShift slot depth ≤ k
  · by_cases below : k < slotShift slot depth + depth
    · have inLane : k - slotShift slot depth < depth := by omega
      have inByte : k - slotShift slot depth < 8 := by omega
      simp [hk, above, below, inLane, inByte, Nat.not_lt.mpr above]
    · have outside : ¬ k - slotShift slot depth < depth := by omega
      simp [hk, below, outside]
  · simp [hk, above, Nat.lt_of_not_le above]

/-- Settles O29: the lane starts at the slot's shift. -/
theorem extractReadsTheLane : Obligations.ExtractReadsTheLane := by
  unfold Obligations.ExtractReadsTheLane
  intro byte d slot j _ _
  exact getLsbD_extractIndex byte slot d j

/-! ### The round trip -/

theorem extractIndex_insertIndex_same (byte v : Byte) {slot depth : Nat} (h : slot < 8 / depth) :
    extractIndex (insertIndex byte slot depth v) slot depth = BitVec.ofNat 8 (v.toNat % 2 ^ depth) := by
  refine BitVec.eq_of_getLsbD_eq fun j hj => ?_
  rw [getLsbD_extractIndex, BitVec.getLsbD_ofNat, Nat.testBit_mod_two_pow, BitVec.testBit_toNat]
  by_cases inLane : j < depth
  · obtain ⟨inByte, lane⟩ := slotOfBit_slotShift_add h inLane
    rw [getLsbD_insertIndex byte v h inByte, if_pos lane, Nat.add_sub_cancel_left]
    simp [hj]
  · simp [inLane]

theorem extractIndex_insertIndex_other (byte v : Byte) {slot other depth : Nat} (h : slot < 8 / depth)
    (hother : other < 8 / depth) (ne : other ≠ slot) :
    extractIndex (insertIndex byte slot depth v) other depth = extractIndex byte other depth := by
  refine BitVec.eq_of_getLsbD_eq fun j _ => ?_
  rw [getLsbD_extractIndex, getLsbD_extractIndex]
  by_cases inLane : j < depth
  · obtain ⟨inByte, lane⟩ := slotOfBit_slotShift_add hother inLane
    rw [getLsbD_insertIndex byte v h inByte, if_neg (lane.trans_ne ne)]
  · simp [inLane]

/-- The byte after Insert of `v slot` into each of the slots `0 .. n - 1`. -/
def insertSlots (byte : Byte) (depth : Nat) (v : Nat → Byte) (n : Nat) : Byte :=
  (List.range n).foldl (fun b slot => insertIndex b slot depth (v slot)) byte

theorem insertSlots_succ (byte : Byte) (depth : Nat) (v : Nat → Byte) (n : Nat) :
    insertSlots byte depth v (n + 1) = insertIndex (insertSlots byte depth v n) n depth (v n) := by
  simp only [insertSlots, List.range_succ, List.foldl_append, List.foldl_cons, List.foldl_nil]

/-- The bits of the slots written come from the values, whatever the byte held. -/
theorem getLsbD_insertSlots (byte : Byte) {depth n k : Nat} (v : Nat → Byte) (hn : n ≤ 8 / depth) (hk : k < 8) :
    (insertSlots byte depth v n).getLsbD k =
      if slotOfBit depth k < n then (v (slotOfBit depth k)).getLsbD (k - slotShift (slotOfBit depth k) depth)
      else byte.getLsbD k := by
  induction n with
  | zero => rfl
  | succ n ih =>
    rw [insertSlots_succ, getLsbD_insertIndex _ _ hn hk, ih (Nat.le_of_succ_le hn)]
    by_cases lane : slotOfBit depth k = n
    · simp [lane]
    · have earlier : slotOfBit depth k < n + 1 ↔ slotOfBit depth k < n := by omega
      simp [lane, earlier]

theorem insertSlots_all (byte byte' : Byte) {depth : Nat} (v : Nat → Byte) (h : depth ∈ [1, 2, 4, 8]) :
    insertSlots byte depth v (8 / depth) = insertSlots byte' depth v (8 / depth) := by
  refine BitVec.eq_of_getLsbD_eq fun k hk => ?_
  rw [getLsbD_insertSlots byte v le_rfl hk, getLsbD_insertSlots byte' v le_rfl hk, if_pos (slotOfBit_lt h),
    if_pos (slotOfBit_lt h)]

/-- Settles O30: the lanes are disjoint and cover the byte. -/
theorem insertThenExtractRoundTrip : Obligations.InsertThenExtractRoundTrip := by
  unfold Obligations.InsertThenExtractRoundTrip
  refine ⟨?same, ?other, ?all⟩
  case same =>
    intro byte v d slot _ hslot
    exact extractIndex_insertIndex_same byte v hslot
  case other =>
    intro byte v d slot other _ hslot hother ne
    exact extractIndex_insertIndex_other byte v hslot hother ne
  case all =>
    intro byte byte' v d hd
    exact insertSlots_all byte byte' v hd

/-! ### Depth 8 -/

theorem pixelSlot_eight (width x y : Nat) : pixelSlot 8 width x y = 0 := Nat.mod_one _

theorem pixelByte_eight (width x y : Nat) : pixelByte 8 width x y = y * width + x := Nat.div_one _

theorem extractIndex_eight (byte : Byte) : extractIndex byte 0 8 = byte := by
  refine BitVec.eq_of_getLsbD_eq fun k hk => ?_
  rw [getLsbD_extractIndex, show slotShift 0 8 = 0 from rfl, Nat.zero_add]
  simp [hk]

theorem insertIndex_eight (byte v : Byte) : insertIndex byte 0 8 v = v := by
  refine BitVec.eq_of_getLsbD_eq fun k hk => ?_
  have lane : slotOfBit 8 k = 0 := Nat.div_eq_of_lt (by omega)
  rw [getLsbD_insertIndex byte v (by decide) hk, if_pos lane]
  rfl

theorem pixel_of_depth_eight {s : State} (h : s.depth = 8) (x y : Nat) :
    s.pixel x y = s.planeRead (y * s.imageWidth + x) := by
  rw [State.pixel, h, pixelSlot_eight, pixelByte_eight, extractIndex_eight]

/-- Settles O31: at depth 8 a byte has one slot, and its lane is the whole byte. -/
theorem depthEightPixelsAreBytes : Obligations.DepthEightPixelsAreBytes := by
  unfold Obligations.DepthEightPixelsAreBytes
  intro s byte v x y depth
  exact ⟨rfl, pixelSlot_eight s.imageWidth x y, rfl, rfl, extractIndex_eight byte, insertIndex_eight byte v,
    pixel_of_depth_eight depth x y⟩

end Sys2Proof.Machine
end

section
/-! 42_rle_decoder.md R140 and R142: what DECODE does with a legal configuration. -/

namespace Sys2Proof.Machine

theorem exec_decode (s : State) :
    exec .decode s = withValidConfig s fun t =>
      if t.regs.mode = 0 then .next (raiseError .validation t) else .next (goTo .hdrA (decodeInit t)) := rfl

theorem exec_decode_of_legal {s : State} (h : LegalConfig s.regs s.capacity) :
    exec .decode s =
      if s.regs.mode = 0 then
        .next (raiseError .validation (s.setPlaneLen (BitVec.ofNat 32 (imageBytes s.regs))))
      else .next (goTo .hdrA (decodeInit (s.setPlaneLen (BitVec.ofNat 32 (imageBytes s.regs))))) := by
  rw [exec_decode, withValidConfig_of_legal h]
  rfl

/-- Each RLE mode has one depth (40_commands.md R101). -/
theorem mode_depth_of_legal {s : State} (h : LegalConfig s.regs s.capacity) (compressed : s.regs.mode.toNat ≠ 0) :
    s.regs.mode.toNat = 1 ∧ s.depth = 8 ∨ s.regs.mode.toNat = 2 ∧ s.depth = 4 := by
  obtain ⟨_, notReserved, rle8, rle4, _⟩ := h
  have range : s.regs.mode.toNat = 1 ∨ s.regs.mode.toNat = 2 := by omega
  exact range.imp (fun mode => ⟨mode, rle8 mode⟩) (fun mode => ⟨mode, rle4 mode⟩)

/-- Settles O24: DECODE looks at MODE after the validation that wrote PLANE_LEN and before it fills the plane. -/
theorem decodeWithoutCompressionRaisesValidationError : Obligations.DecodeWithoutCompressionRaisesValidationError := by
  unfold Obligations.DecodeWithoutCompressionRaisesValidationError
  intro s legal
  refine ⟨fun uncompressed => ?raised, fun compressed => ⟨mode_depth_of_legal legal compressed, ?started⟩⟩
  case raised =>
    rw [exec_decode_of_legal legal, if_pos (BitVec.eq_of_toNat_eq uncompressed)]
    rfl
  case started =>
    rw [exec_decode_of_legal legal, if_neg fun mode => compressed (congrArg BitVec.toNat mode)]
    exact ⟨_, rfl, rfl⟩

end Sys2Proof.Machine
end

section
/-! 42_rle_decoder.md R145, R147, R155, R156 and R172: the engine's steps that read a byte. -/

namespace Sys2Proof.Machine

/-! ### Reading the source -/

/-- The state after the source gave a byte and offers `src` next: the byte is counted (10_state.md R37). -/
def afterSrcRead (src : Source) (s : State) : State := countByte (s.setSource src)

theorem srcRead_of_byte {s : State} {r : Byte} {src : Source} (h : s.source.next = some (r, src))
    (k : Byte → State → Result) : srcRead s k = k r (afterSrcRead src s) := by
  simp only [srcRead, h, afterSrcRead]

theorem srcRead_of_eof {s : State} (h : s.source.next = none) (eof : s.source.rest = .eof)
    (k : Byte → State → Result) : srcRead s k = .next (raiseError .truncation s) := by
  simp only [srcRead, h, eof, if_true]

theorem srcRead_of_nothing {s : State} (h : s.source.next = none) (nothing : s.source.rest = .nothing)
    (k : Byte → State → Result) : srcRead s k = .fault .awaitingSource := by
  simp only [srcRead, h, nothing, reduceCtorEq, if_false]

/-! ### The engine's step in each state of a decode -/

theorem engineStep_hdrA {s : State} (h : s.status.state = .hdrA) :
    engineStep s = srcRead s fun r t => .next (latchA r t) := by simp only [engineStep, h]

theorem engineStep_hdrB {s : State} (h : s.status.state = .hdrB) :
    engineStep s = srcRead s fun r t => .next (dispatchHeader r (latchB r t)) := by simp only [engineStep, h]

theorem engineStep_deltaX {s : State} (h : s.status.state = .deltaX) :
    engineStep s = srcRead s fun r t => .next (latchDx r t) := by simp only [engineStep, h]

theorem engineStep_deltaY {s : State} (h : s.status.state = .deltaY) :
    engineStep s = srcRead s fun r t => .next (moveByDelta r t) := by simp only [engineStep, h]

theorem engineStep_absRead {s : State} (h : s.status.state = .absRead) : engineStep s = srcRead s latchLiteral := by
  simp only [engineStep, h]

theorem engineStep_run {s : State} (h : s.status.state = .run) : engineStep s = runStep s := by
  simp only [engineStep, h]

theorem engineStep_absEmit {s : State} (h : s.status.state = .absEmit) : engineStep s = absEmitStep s := by
  simp only [engineStep, h]

/-- The states in which the engine asserts `s_ready` are those whose step reads the source (20_memory.md R67). -/
theorem engineStep_of_sReady {s : State} (h : s.sReady = true) : ∃ k, engineStep s = srcRead s k := by
  cases state : s.status.state with
  | hdrA => exact ⟨_, engineStep_hdrA state⟩
  | hdrB => exact ⟨_, engineStep_hdrB state⟩
  | deltaX => exact ⟨_, engineStep_deltaX state⟩
  | deltaY => exact ⟨_, engineStep_deltaY state⟩
  | absRead => exact ⟨_, engineStep_absRead state⟩
  | idle | exec | run | absEmit => simp [State.sReady, state] at h

/-- EOF in a reading state, whichever it is, ends the decode (42_rle_decoder.md R146). -/
theorem engineStep_of_eof {s : State} (ready : s.sReady = true) (h : s.source.next = none)
    (eof : s.source.rest = .eof) : engineStep s = .next (raiseError .truncation s) := by
  obtain ⟨k, reads⟩ := engineStep_of_sReady ready
  rw [reads, srcRead_of_eof h eof]

theorem engineStep_of_nothing {s : State} (ready : s.sReady = true) (h : s.source.next = none)
    (nothing : s.source.rest = .nothing) : engineStep s = .fault .awaitingSource := by
  obtain ⟨k, reads⟩ := engineStep_of_sReady ready
  rw [reads, srcRead_of_nothing h nothing]

/-- EOF as the offer that the statements about HDR_B and ABS_READ name. -/
theorem engineStep_of_only_eof {s : State} (ready : s.sReady = true) (h : s.source = { bytes := [], rest := .eof }) :
    engineStep s = .next (raiseError .truncation s) :=
  engineStep_of_eof ready (by rw [h]; rfl) (by rw [h])

/-! ### HDR_A, DELTA_X and DELTA_Y -/

/-- Settles O36: each of the three states hands its byte, once counted, to the one operation of its rule. -/
theorem headerAndDeltaStepsTakeTheirByte : Obligations.HeaderAndDeltaStepsTakeTheirByte := by
  unfold Obligations.HeaderAndDeltaStepsTakeTheirByte
  intro s
  refine ⟨fun r src byte => ⟨fun hdrA => ?hdrA, fun deltaX => ?deltaX, fun deltaY => ?deltaY⟩,
    fun none reading => ?noByte⟩
  case hdrA =>
    rw [engineStep_hdrA hdrA, srcRead_of_byte byte]
    rfl
  case deltaX =>
    rw [engineStep_deltaX deltaX, srcRead_of_byte byte]
    rfl
  case deltaY =>
    rw [engineStep_deltaY deltaY, srcRead_of_byte byte]
    rfl
  case noByte =>
    have ready : s.sReady = true := by
      simp only [List.mem_cons, List.not_mem_nil, or_false] at reading
      rcases reading with state | state | state <;> simp [State.sReady, state]
    exact ⟨engineStep_of_eof ready none, engineStep_of_nothing ready none⟩

/-! ### HDR_B -/

theorem dispatchHeader_encodedRun (r : Byte) {s : State} (h : s.scratch.a ≠ 0) : dispatchHeader r s = enterRun s :=
  if_pos h

/-- With S.A = 0 the second byte selects the record (30_encoding.md R82). -/
theorem dispatchHeader_escape (r : Byte) {s : State} (h : s.scratch.a = 0) :
    dispatchHeader r s =
      if r = 0 then lineEnd s else if r = 1 then finish s else if r = 2 then enterDelta s else enterAbsolute r s :=
  if_neg (not_not_intro h)

theorem dispatchHeader_absolute {r : Byte} {s : State} (h : s.scratch.a = 0) (hr : 3 ≤ r.toNat) :
    dispatchHeader r s = enterAbsolute r s := by
  obtain ⟨h0, h1, h2⟩ := ne_selector_of_three_le hr
  rw [dispatchHeader_escape r h, if_neg h0, if_neg h1, if_neg h2]

/-- A dispatch changes the cursor, the datapath registers and STATUS at most. -/
theorem dispatchHeader_frame (r : Byte) (s : State) :
    dispatchHeader r s =
        { s with
          counters := (dispatchHeader r s).counters
          scratch := (dispatchHeader r s).scratch
          status := (dispatchHeader r s).status } ∧
      (dispatchHeader r s).counters.bytesConsumed = s.counters.bytesConsumed ∧
      (dispatchHeader r s).counters.pixelsWritten = s.counters.pixelsWritten := by
  unfold dispatchHeader
  split_ifs <;> exact ⟨rfl, rfl, rfl⟩

/-- Of the five records only EOL changes the cursor in HDR_B. -/
theorem dispatchHeader_counters {r : Byte} {s : State} (h : ¬(s.scratch.a = 0 ∧ r = 0)) :
    (dispatchHeader r s).counters = s.counters := by
  by_cases escape : s.scratch.a = 0
  · rw [dispatchHeader_escape r escape, if_neg fun eol => h ⟨escape, eol⟩]
    split_ifs <;> rfl
  · rw [dispatchHeader_encodedRun r escape]
    rfl

theorem engineStep_hdrB_of_byte {s : State} {r : Byte} {src : Source} (state : s.status.state = .hdrB)
    (byte : s.source.next = some (r, src)) :
    engineStep s = .next (dispatchHeader r (latchB r (afterSrcRead src s))) := by
  rw [engineStep_hdrB state, srcRead_of_byte byte]

/-- Settles O37: one dispatch equation for each record kind. -/
theorem headerByteSelectsTheNextState : Obligations.HeaderByteSelectsTheNextState := by
  unfold Obligations.HeaderByteSelectsTheNextState
  intro s state
  have ready : s.sReady = true := by simp [State.sReady, state]
  refine ⟨engineStep_of_only_eof ready, fun r src byte => ?_⟩
  obtain ⟨frame, consumed, written⟩ := dispatchHeader_frame r (latchB r (afterSrcRead src s))
  refine ⟨_, engineStep_hdrB_of_byte state byte, frame, consumed, written, fun notEol => ?cursor, fun run => ?run,
    fun escape => ?eol, fun escape => ?eob, fun escape => ?delta, fun escape count => ?absolute⟩
  case cursor =>
    rw [dispatchHeader_counters (s := latchB r (afterSrcRead src s)) notEol]
    exact ⟨rfl, rfl⟩
  case run =>
    rw [dispatchHeader_encodedRun r (s := latchB r (afterSrcRead src s)) run]
    exact ⟨rfl, rfl⟩
  case eol =>
    rintro rfl
    rw [dispatchHeader_escape 0 (s := latchB 0 (afterSrcRead src s)) escape]
    exact ⟨rfl, rfl, rfl, rfl⟩
  case eob =>
    rintro rfl
    rw [dispatchHeader_escape 1 (s := latchB 1 (afterSrcRead src s)) escape]
    exact ⟨rfl, rfl⟩
  case delta =>
    rintro rfl
    rw [dispatchHeader_escape 2 (s := latchB 2 (afterSrcRead src s)) escape]
    exact ⟨rfl, rfl⟩
  case absolute =>
    rw [dispatchHeader_absolute (s := latchB r (afterSrcRead src s)) escape count]
    exact ⟨rfl, rfl⟩

/-! ### ABS_READ -/

theorem latchLiteral_of_lt (r : Byte) {s : State} (h : s.scratch.fill.toNat < 256) :
    latchLiteral r s = .next (afterLiteral r s) := by
  rcases latchLiteral_cases r s with ⟨_, stored⟩ | ⟨beyond, _⟩
  · exact stored
  · exact absurd h (Nat.not_lt.mpr beyond)

/-- Storing a literal byte changes LIT_BUF, the datapath registers and STATUS at most. -/
theorem afterLiteral_frame (r : Byte) (s : State) :
    afterLiteral r s =
      { s with
        litBuf := (afterLiteral r s).litBuf
        scratch := (afterLiteral r s).scratch
        status := (afterLiteral r s).status } := by
  unfold afterLiteral
  split <;> rfl

theorem litRead_afterLiteral (r : Byte) (s : State) (k : Nat) :
    (afterLiteral r s).litRead k = if k = s.scratch.fill.toNat then r else s.litRead k := by
  rw [← litRead_litWrite]
  unfold afterLiteral
  split <;> rfl

/-- The last literal byte, which makes S.FILL equal to S.NEED, leads to ABS_EMIT. -/
theorem afterLiteral_last (r : Byte) {s : State} (h : s.scratch.fill + 1 = s.scratch.need) :
    (afterLiteral r s).scratch = { s.scratch with fill := s.scratch.need, i := 0 } ∧
      (afterLiteral r s).status = { s.status with state := .absEmit } := by
  rw [afterLiteral, if_pos h, ← h]
  exact ⟨rfl, rfl⟩

theorem afterLiteral_more (r : Byte) {s : State} (h : s.scratch.fill + 1 ≠ s.scratch.need) :
    (afterLiteral r s).scratch = { s.scratch with fill := s.scratch.fill + 1 } ∧
      (afterLiteral r s).status = s.status := by
  rw [afterLiteral, if_neg h]
  exact ⟨rfl, rfl⟩

/-- Settles O38: S.FILL below S.NEED addresses a byte of LIT_BUF, and their nine bits count to 256 without wrapping. -/
theorem literalByteGoesToTheLiteralBuffer : Obligations.LiteralByteGoesToTheLiteralBuffer := by
  unfold Obligations.LiteralByteGoesToTheLiteralBuffer
  intro s state unfilled need
  have ready : s.sReady = true := by simp [State.sReady, state]
  refine ⟨engineStep_of_only_eof ready, fun r src byte => ?_⟩
  have step : engineStep s = .next (afterLiteral r (afterSrcRead src s)) := by
    rw [engineStep_absRead state, srcRead_of_byte byte]
    exact latchLiteral_of_lt r (Nat.lt_of_lt_of_le unfilled need)
  refine ⟨_, step, ?frame, ?stored, fun k other => ?kept, fun last => ?last, fun more => ?more⟩
  case frame => exact afterLiteral_frame r _
  case stored => exact (litRead_afterLiteral r _ _).trans (if_pos rfl)
  case kept => exact (litRead_afterLiteral r _ k).trans (if_neg other)
  case last =>
    have fill : s.scratch.fill + 1 = s.scratch.need := by bv_omega
    exact afterLiteral_last r (s := afterSrcRead src s) fill
  case more =>
    have fill : s.scratch.fill + 1 ≠ s.scratch.need := by bv_omega
    exact afterLiteral_more r (s := afterSrcRead src s) fill

end Sys2Proof.Machine
end

section
/-! 42_rle_decoder.md R151, R160 and R173: the steps of RUN and ABS_EMIT, which write one pixel. -/

namespace Sys2Proof.Machine

/-! ### Two pixels never share a slot of a byte -/

theorem pixelNumber_inj {width x y x' y' : Nat} (hx : x < width) (hx' : x' < width)
    (h : pixelNumber width x y = pixelNumber width x' y') : x = x' ∧ y = y' := by
  have column (a b : Nat) (ha : a < width) : pixelNumber width a b % width = a := by
    rw [pixelNumber, Nat.mul_add_mod', Nat.mod_eq_of_lt ha]
  have same : x = x' := by rw [← column x y hx, h, column x' y' hx']
  subst same
  exact ⟨rfl, Nat.eq_of_mul_eq_mul_right (Nat.zero_lt_of_lt hx) (Nat.add_right_cancel h)⟩

/-- The byte and the slot of a pixel give back its number, and so its place in the image (41_packing.md R122). -/
theorem pixel_inj {depth width x y x' y' : Nat} (hx : x < width) (hx' : x' < width)
    (byte : pixelByte depth width x y = pixelByte depth width x' y')
    (slot : pixelSlot depth width x y = pixelSlot depth width x' y') : x = x' ∧ y = y' := by
  refine pixelNumber_inj hx hx' ?_
  rw [← Nat.div_add_mod (pixelNumber width x y) (pixelsPerByte depth),
    ← Nat.div_add_mod (pixelNumber width x' y') (pixelsPerByte depth)]
  exact congrArg₂ (fun q r => pixelsPerByte depth * q + r) byte slot

theorem pixelSlot_lt {s : State} (h : LegalConfig s.regs s.capacity) (x y : Nat) :
    pixelSlot s.depth s.imageWidth x y < 8 / s.depth := Nat.mod_lt _ (pixelsPerByte_pos h)

theorem pixelByte_lt_capacity {s : State} {x y : Nat} (h : LegalConfig s.regs s.capacity) (hx : x < s.imageWidth)
    (hy : y < s.imageHeight) : pixelByte s.depth s.imageWidth x y < s.capacity.toNat := by
  have inImage := pixelByte_lt_imageBytes h hx hy
  obtain ⟨_, _, _, _, _, _, fits⟩ := h
  exact Nat.lt_of_lt_of_le inImage fits

/-- An extracted index has no bit above the depth, so cutting it to the depth changes nothing. -/
theorem ofNat_extractIndex_mod (byte : Byte) (slot depth : Nat) :
    BitVec.ofNat 8 ((extractIndex byte slot depth).toNat % 2 ^ depth) = extractIndex byte slot depth := by
  refine BitVec.eq_of_getLsbD_eq fun j hj => ?_
  rw [BitVec.getLsbD_ofNat, Nat.testBit_mod_two_pow, BitVec.testBit_toNat, getLsbD_extractIndex]
  by_cases inLane : j < depth <;> simp [hj, inLane]

/-! ### The pixel write -/

theorem planeRead_afterPutPixel_same (v : Byte) (s : State) :
    (afterPutPixel v s).planeRead
        (pixelByte s.depth s.imageWidth s.counters.curX.toNat s.counters.curY.toInt.toNat) =
      insertIndex (s.planeRead (pixelByte s.depth s.imageWidth s.counters.curX.toNat s.counters.curY.toInt.toNat))
        (pixelSlot s.depth s.imageWidth s.counters.curX.toNat s.counters.curY.toInt.toNat) s.depth v :=
  (planeRead_planeWrite s _ _ _).trans (if_pos rfl)

theorem planeRead_afterPutPixel_other (v : Byte) {s : State} {k : Nat}
    (h : k ≠ pixelByte s.depth s.imageWidth s.counters.curX.toNat s.counters.curY.toInt.toNat) :
    (afterPutPixel v s).planeRead k = s.planeRead k :=
  (planeRead_planeWrite s _ _ _).trans (if_neg h)

/-- A pixel write changes neither the geometry nor the depth. -/
theorem pixel_afterPutPixel (v : Byte) (s : State) (x y : Nat) :
    (afterPutPixel v s).pixel x y =
      extractIndex ((afterPutPixel v s).planeRead (pixelByte s.depth s.imageWidth x y))
        (pixelSlot s.depth s.imageWidth x y) s.depth := rfl

/-- The pixel at the cursor takes the low bits of the value. -/
theorem pixel_afterPutPixel_same (v : Byte) {s : State} (h : LegalConfig s.regs s.capacity) :
    (afterPutPixel v s).pixel s.counters.curX.toNat s.counters.curY.toInt.toNat =
      BitVec.ofNat 8 (v.toNat % 2 ^ s.depth) := by
  rw [pixel_afterPutPixel, planeRead_afterPutPixel_same]
  exact extractIndex_insertIndex_same _ v (pixelSlot_lt h _ _)

/-- Every other pixel lies in another byte, or in another slot of the same byte. -/
theorem pixel_afterPutPixel_other (v : Byte) {s : State} {x y : Nat} (h : LegalConfig s.regs s.capacity)
    (hx : x < s.imageWidth) (cursor : s.counters.curX.toNat < s.imageWidth)
    (ne : ¬(x = s.counters.curX.toNat ∧ y = s.counters.curY.toInt.toNat)) :
    (afterPutPixel v s).pixel x y = s.pixel x y := by
  rw [pixel_afterPutPixel, State.pixel]
  by_cases byte : pixelByte s.depth s.imageWidth x y =
      pixelByte s.depth s.imageWidth s.counters.curX.toNat s.counters.curY.toInt.toNat
  · have slot : pixelSlot s.depth s.imageWidth x y ≠
        pixelSlot s.depth s.imageWidth s.counters.curX.toNat s.counters.curY.toInt.toNat :=
      fun slot => ne (pixel_inj hx cursor byte slot)
    rw [byte, planeRead_afterPutPixel_same]
    exact extractIndex_insertIndex_other _ v (pixelSlot_lt h _ _) (pixelSlot_lt h _ _) slot
  · rw [planeRead_afterPutPixel_other v byte]

/-! ### The step -/

/-- The index that a step of RUN or ABS_EMIT writes: slot `S.I mod ppb` of S.B, or of literal byte `S.I div ppb`
(R151, R173). -/
def stepIndex (s : State) : Byte :=
  extractIndex (if s.status.state = .run then s.scratch.b else s.litRead (s.scratch.i.toNat / (8 / s.depth)))
    (s.scratch.i.toNat % (8 / s.depth)) s.depth

/-- The state after a pixel step that writes `v` and leaves these datapath registers and this STATUS. -/
def afterPixelStep (v : Byte) (scratch : Scratch) (status : Status) (s : State) : State :=
  { advX 1 (afterPutPixel v s) with scratch := scratch, status := status }

theorem afterRunStep_eq {s : State} (h : s.status.state = .run) :
    afterRunStep s =
      afterPixelStep (stepIndex s) { s.scratch with i := s.scratch.i + 1, left := s.scratch.left - 1 }
        { s.status with state := if s.scratch.left = 1 then .hdrA else .run } s := by
  have last : s.scratch.left - 1 = 0 ↔ s.scratch.left = 1 := by bv_omega
  rw [stepIndex, if_pos h, ← h]
  simp only [afterRunStep, last]
  split <;> rfl

theorem afterAbsEmitStep_eq {s : State} (h : s.status.state = .absEmit) :
    afterAbsEmitStep s =
      afterPixelStep (stepIndex s) { s.scratch with i := s.scratch.i + 1 }
        { s.status with state := if s.scratch.i + 1 = s.scratch.count then .hdrA else .absEmit } s := by
  rw [stepIndex, if_neg (by rw [h]; decide), ← h]
  simp only [afterAbsEmitStep]
  split <;> rfl

theorem putPixel_outside (v : Byte) {s : State} (k : State → Result)
    (h : outsideImage s s.counters.curX.toNat s.counters.curY.toInt = true) :
    putPixel v s k = .next (raiseError .bounds s) := if_pos h

theorem putPixel_inside (v : Byte) {s : State} (k : State → Result)
    (inside : outsideImage s s.counters.curX.toNat s.counters.curY.toInt = false)
    (backed : pixelByte s.depth s.imageWidth s.counters.curX.toNat s.counters.curY.toInt.toNat < s.capacity.toNat) :
    putPixel v s k = k (afterPutPixel v s) := by
  rw [putPixel, inside, withPixel, if_pos backed]
  rfl

theorem engineStep_pixel_outside {s : State} (state : s.status.state = .run ∨ s.status.state = .absEmit)
    (h : outsideImage s s.counters.curX.toNat s.counters.curY.toInt = true) :
    engineStep s = .next (raiseError .bounds s) := by
  rcases state with state | state
  · rw [engineStep_run state]
    exact putPixel_outside _ _ h
  · rw [engineStep_absEmit state]
    exact putPixel_outside _ _ h

/-- Inside the image, a step of either state writes the index of its own rule and counts on (R151, R173). -/
theorem engineStep_pixel_inside {s : State} (state : s.status.state = .run ∨ s.status.state = .absEmit)
    (inside : outsideImage s s.counters.curX.toNat s.counters.curY.toInt = false)
    (backed : pixelByte s.depth s.imageWidth s.counters.curX.toNat s.counters.curY.toInt.toNat < s.capacity.toNat) :
    ∃ scratch status, engineStep s = .next (afterPixelStep (stepIndex s) scratch status s) ∧
      (s.status.state = .run →
        scratch = { s.scratch with i := s.scratch.i + 1, left := s.scratch.left - 1 } ∧
        status = { s.status with state := if s.scratch.left = 1 then .hdrA else .run }) ∧
      (s.status.state = .absEmit →
        scratch = { s.scratch with i := s.scratch.i + 1 } ∧
        status = { s.status with state := if s.scratch.i + 1 = s.scratch.count then .hdrA else .absEmit }) := by
  rcases state with run | absEmit
  · refine ⟨_, _, ?_, fun _ => ⟨rfl, rfl⟩, fun absEmit => by simp [run] at absEmit⟩
    rw [engineStep_run run, ← afterRunStep_eq run]
    exact (putPixel_inside _ _ inside backed).trans (apply_ite Host.Outcome.next _ _ _).symm
  · refine ⟨_, _, ?_, fun run => by simp [absEmit] at run, fun _ => ⟨rfl, rfl⟩⟩
    rw [engineStep_absEmit absEmit, ← afterAbsEmitStep_eq absEmit]
    exact (putPixel_inside _ _ inside backed).trans (apply_ite Host.Outcome.next _ _ _).symm

/-- Left of the image's right edge AdvX(1) does not saturate. -/
theorem counters_advX_one {s : State} (h : s.counters.curX.toNat < s.imageWidth) :
    (advX 1 s).counters = { s.counters with curX := s.counters.curX + 1 } := by
  have unsaturated : BitVec.ofNat 32 (min (s.counters.curX.toNat + 1) s.imageWidth) = s.counters.curX + 1 := by
    rw [Nat.min_eq_left h]
    bv_omega
  simp only [advX, Counters.advX, State.setCounters_counters, unsaturated]

theorem afterPixelStep_frame (v : Byte) (scratch : Scratch) (status : Status) {s : State}
    (h : s.counters.curX.toNat < s.imageWidth) :
    afterPixelStep v scratch status s =
      { s with
        plane := (afterPutPixel v s).plane
        scratch := scratch
        status := status
        counters := { s.counters with
          curX := s.counters.curX + 1
          pixelsWritten := s.counters.pixelsWritten + 1 } } :=
  congrArg (fun c => { afterPutPixel v s with scratch := scratch, status := status, counters := c })
    (counters_advX_one (s := afterPutPixel v s) h)

/-- The state after the step reads its plane as the pixel write left it. -/
theorem planeRead_afterPixelStep (v : Byte) (scratch : Scratch) (status : Status) (s : State) (k : Nat) :
    (afterPixelStep v scratch status s).planeRead k = (afterPutPixel v s).planeRead k := rfl

theorem pixel_afterPixelStep (v : Byte) (scratch : Scratch) (status : Status) (s : State) (x y : Nat) :
    (afterPixelStep v scratch status s).pixel x y = (afterPutPixel v s).pixel x y := rfl

/-- Settles O39: both states write the index of their rule at the cursor, and the lanes of a byte are disjoint. -/
theorem pixelStepWritesOnePixel : Obligations.PixelStepWritesOnePixel := by
  unfold Obligations.PixelStepWritesOnePixel
  intro s state
  refine ⟨fun out => ?bounds, fun legal hx hy hy' => ?written⟩
  case bounds =>
    have outside : outsideImage s s.counters.curX.toNat s.counters.curY.toInt = true := by
      rw [← Bool.not_eq_false, outsideImage_false_iff]
      omega
    exact engineStep_pixel_outside state outside
  case written =>
    have inside : outsideImage s s.counters.curX.toNat s.counters.curY.toInt = false := by
      rw [outsideImage_false_iff]
      omega
    have byte := pixelByte_lt_capacity (y := s.counters.curY.toInt.toNat) legal hx (by omega)
    obtain ⟨scratch, status, step, run, absEmit⟩ := engineStep_pixel_inside state inside byte
    refine ⟨_, step, afterPixelStep_frame _ scratch status hx, ?same, fun x y hx' _ ne => ?other, fun k => ?painted,
      fun k ne => ?kept, run, absEmit⟩
    case same =>
      rw [pixel_afterPixelStep, pixel_afterPutPixel_same _ legal]
      exact ofNat_extractIndex_mod _ _ _
    case other =>
      rw [pixel_afterPixelStep]
      exact pixel_afterPutPixel_other _ legal hx' hx ne
    case painted =>
      rw [planeRead_afterPixelStep]
      exact planeRead_afterPutPixel _ s k
    case kept =>
      rw [planeRead_afterPixelStep]
      exact planeRead_afterPutPixel_other _ ne

end Sys2Proof.Machine
end

section
/-! 30_encoding.md sections 1, 2 and 4: what is encoded decodes to itself, and what is decoded encodes to its bytes. -/

namespace Sys2Proof

/-! ### Decoding what is encoded -/

/-- Settles O5: a record by its row of 30_encoding.md R82, a command because its code is CTRL[3:0]. -/
theorem everyEncodedInstructionDecodesToItself : Obligations.EveryEncodedInstructionDecodesToItself := by
  unfold Obligations.EveryEncodedInstructionDecodesToItself
  intro depth i rest wf
  cases i with
  | encodedRun a b => exact decodeRecord_encodedRun depth b rest (by simpa [Instr.wf] using wf)
  | eol => exact decodeRecord_eol depth rest
  | eob => exact decodeRecord_eob depth rest
  | delta dx dy => exact decodeRecord_delta depth dx dy rest
  | absolute b literal =>
    simp only [Instr.wf, Bool.and_eq_true, decide_eq_true_eq, beq_iff_eq] at wf
    exact decodeRecord_absolute rest wf.1 wf.2
  | nop | clear | decode | getIndex | setIndex | reserved5 | reserved6 | reserved7 | reserved8 | reserved9
  | reserved10 | reserved11 | reserved12 | reserved13 | reserved14 | reserved15 => rfl

/-- Settles O4: each word is decoded by evaluation. -/
theorem specWordsDecodeToTheirInstructions : Obligations.SpecWordsDecodeToTheirInstructions := by
  unfold Obligations.SpecWordsDecodeToTheirInstructions
  decide

/-! ### Encoding what is decoded -/

/-- The second byte of an escape that is none of the three selectors is a count of 3 or more. -/
theorem three_le_of_ne_selector {b : Byte} (h0 : b ≠ 0) (h1 : b ≠ 1) (h2 : b ≠ 2) : 3 ≤ b.toNat := by
  bv_omega

/-- The rows of 30_encoding.md R82, read backwards: the records that a header and the bytes after it can give. -/
theorem decodeAfterHeader_cases {depth : Nat} {a b : Byte} {tail rest : List Byte} {i : Instr}
    (h : decodeAfterHeader depth a b tail = .instr i rest) :
    (a ≠ 0 ∧ i = .encodedRun a b ∧ tail = rest) ∨
    (a = 0 ∧ b = 0 ∧ i = .eol ∧ tail = rest) ∨
    (a = 0 ∧ b = 1 ∧ i = .eob ∧ tail = rest) ∨
    (a = 0 ∧ b = 2 ∧ ∃ dx dy, i = .delta dx dy ∧ tail = dx :: dy :: rest) ∨
    (a = 0 ∧ 3 ≤ b.toNat ∧ ∃ literal, literal.length = paddedLength b.toNat depth ∧
      i = .absolute b literal ∧ tail = literal ++ rest) := by
  unfold decodeAfterHeader at h
  split_ifs at h with ha h0 h1 h2 fits
  · cases h; exact .inl ⟨ha, rfl, rfl⟩
  · cases h; exact .inr (.inl ⟨of_not_not ha, h0, rfl, rfl⟩)
  · cases h; exact .inr (.inr (.inl ⟨of_not_not ha, h1, rfl, rfl⟩))
  · split at h
    · cases h; exact .inr (.inr (.inr (.inl ⟨of_not_not ha, h2, _, _, rfl, rfl⟩)))
    · cases h
  · cases h
    exact .inr (.inr (.inr (.inr ⟨of_not_not ha, three_le_of_ne_selector h0 h1 h2, _,
      List.length_take_of_le fits, rfl, (List.take_append_drop _ _).symm⟩)))

/-- What the record decoder reads is a well-formed record that stands at the head of the stream. -/
theorem record_of_decodeRecord {depth : Nat} {bytes rest : List Byte} {i : Instr}
    (h : decodeRecord depth bytes = .instr i rest) :
    i.wf depth = true ∧ recordBytes i ≠ [] ∧ bytes = recordBytes i ++ rest := by
  match bytes, h with
  | a :: b :: tail, h =>
    rcases decodeAfterHeader_cases h with ⟨ha, rfl, rfl⟩ | ⟨rfl, rfl, rfl, rfl⟩ | ⟨rfl, rfl, rfl, rfl⟩ |
      ⟨rfl, rfl, dx, dy, rfl, rfl⟩ | ⟨rfl, hb, literal, hlen, rfl, rfl⟩
    · exact ⟨by simpa [Instr.wf] using ha, List.cons_ne_nil _ _, rfl⟩
    · exact ⟨rfl, List.cons_ne_nil _ _, rfl⟩
    · exact ⟨rfl, List.cons_ne_nil _ _, rfl⟩
    · exact ⟨rfl, List.cons_ne_nil _ _, rfl⟩
    · exact ⟨by simp [Instr.wf, hb, hlen], List.cons_ne_nil _ _, rfl⟩

/-- The length of a well-formed instruction's bytes, by its constructor's law. -/
theorem length_recordBytes {depth : Nat} {i : Instr} (wf : i.wf depth = true) :
    (recordBytes i).length = recordLength depth i := by
  cases i with
  | absolute b literal => exact Laws.EncodedLength.absolute b literal depth wf
  | _ => rfl

/-- Settles O6: the rows of 30_encoding.md R82, read backwards. -/
theorem decodedRecordsEncodeToTheirBytes : Obligations.DecodedRecordsEncodeToTheirBytes := by
  unfold Obligations.DecodedRecordsEncodeToTheirBytes
  intro depth bytes rest i decoded
  obtain ⟨wf, _, taken⟩ := record_of_decodeRecord decoded
  exact ⟨wf, taken.symm, length_recordBytes wf⟩

end Sys2Proof
end

section
/-! 42_rle_decoder.md R161 and R184: the saturating moves of the cursor, and the order in which pixels are written. -/

namespace Sys2Proof.Machine

/-! ### The saturating moves -/

theorem toNat_curX_advX (w n : Nat) (c : Counters) (h : w < 2 ^ 32) :
    (c.advX w n).curX.toNat = min (c.curX.toNat + n) w := by
  simp only [Counters.advX, BitVec.toNat_ofNat]
  omega

/-- DecY never leaves the registers' range: it moves down, and not below -1. -/
theorem toInt_curY_decY (n : Nat) (c : Counters) : (c.decY n).curY.toInt = max (c.curY.toInt - n) (-1) := by
  have range := BitVec.toInt_lt (x := c.curY)
  simp only [Counters.decY, BitVec.toInt_ofInt]
  exact Int.bmod_eq_of_le (by omega) (by omega)

theorem imageWidth_lt (s : State) : s.imageWidth < 2 ^ 32 := s.regs.width.isLt

/-- Settles O41: each saturated move cuts the unbounded one at the same bound. -/
theorem cursorMovesSaturateTheUnboundedCursor : Obligations.CursorMovesSaturateTheUnboundedCursor := by
  unfold Obligations.CursorMovesSaturateTheUnboundedCursor
  intro s tx n ty hx hy
  refine ⟨⟨?advX, rfl⟩, ⟨?decY, rfl⟩, ⟨?lineX, ?lineY⟩, fun below => ?inside⟩
  case advX =>
    rw [advX_counters, toNat_curX_advX _ _ _ (imageWidth_lt s), hx]
    omega
  case decY =>
    rw [decY_counters, toInt_curY_decY, hy]
    omega
  case lineX => exact (Nat.zero_min _).symm
  case lineY =>
    have moved := toInt_curY_decY 1 { s.counters with curX := 0 }
    calc (lineEnd s).counters.curY.toInt = max (s.counters.curY.toInt - 1) (-1) := moved
      _ = max (ty - 1) (-1) := by rw [hy]; omega
  case inside =>
    rw [outsideImage_false_iff, hx, hy]
    omega

/-! ### The order of writing -/

/-- How many pixels of a `w` by `h` image come before the cursor (x, y): `pixelsBefore` as a function of the cursor
(42_rle_decoder.md R184). -/
def pixelOrder (w h x : Nat) (y : Int) : Nat :=
  if y < 0 then w * h else ((h : Int) - 1 - y).toNat * w + x

theorem pixelsBefore_eq (s : State) :
    pixelsBefore s = pixelOrder s.imageWidth s.imageHeight s.counters.curX.toNat s.counters.curY.toInt := rfl

theorem pixelOrder_row {w h x : Nat} {y : Int} (hy : 0 ≤ y) (hy' : y < h) :
    pixelOrder w h x y = (h - 1 - y.toNat) * w + x := by
  rw [pixelOrder, if_neg (by omega), show ((h : Int) - 1 - y).toNat = h - 1 - y.toNat by omega]

/-- The pixels up to the end of a row are those before the row below it. -/
theorem pixelOrder_le_rows {w h x : Nat} {y : Int} (hx : x ≤ w) (hy : 0 ≤ y) (hy' : y < h) {n : Nat}
    (hn : h - 1 - y.toNat < n) : pixelOrder w h x y ≤ n * w :=
  calc pixelOrder w h x y = (h - 1 - y.toNat) * w + x := pixelOrder_row hy hy'
    _ ≤ (h - 1 - y.toNat + 1) * w := by rw [Nat.succ_mul]; omega
    _ ≤ n * w := Nat.mul_le_mul_right w hn

theorem pixelOrder_le_image {w h x : Nat} {y : Int} (hx : x ≤ w) (hy : y < h) : pixelOrder w h x y ≤ w * h := by
  by_cases below : y < 0
  · rw [pixelOrder, if_pos below]
  · rw [Nat.mul_comm]
    exact pixelOrder_le_rows hx (by omega) hy (by omega)

/-- A cursor below the image, further down, or further right in the same row is no earlier in the order of writing. -/
theorem pixelOrder_mono {w h x x' : Nat} {y y' : Int} (hx : x ≤ w) (hy : y < h)
    (later : y' < 0 ∨ y' < y ∨ y' = y ∧ x ≤ x') : pixelOrder w h x y ≤ pixelOrder w h x' y' := by
  by_cases below : y' < 0
  · rw [pixelOrder.eq_1 w h x' y', if_pos below]
    exact pixelOrder_le_image hx hy
  rcases later.resolve_left below with down | ⟨rfl, right⟩
  · rw [pixelOrder_row (x := x') (y := y') (by omega) (by omega)]
    exact Nat.le_add_right_of_le (pixelOrder_le_rows hx (by omega) hy (by omega))
  · rw [pixelOrder_row (by omega) hy, pixelOrder_row (by omega) hy]
    exact Nat.add_le_add_left right _

/-- The next pixel of the row is the next in the order of writing. -/
theorem pixelOrder_succ {w h x : Nat} {y : Int} (hy : 0 ≤ y) : pixelOrder w h (x + 1) y = pixelOrder w h x y + 1 := by
  rw [pixelOrder, if_neg (by omega), pixelOrder, if_neg (by omega), Nat.add_assoc]

/-- Before the first pixel there is none. -/
theorem pixelOrder_first {w h : Nat} (hh : 1 ≤ h) : pixelOrder w h 0 ((h : Int) - 1) = 0 := by
  rw [pixelOrder_row (by omega) (by omega), show h - 1 - ((h : Int) - 1).toNat = 0 by omega]
  simp

end Sys2Proof.Machine
end

section
/-! 40_commands.md R101, 42_rle_decoder.md R140 and 41_packing.md R122 to R126: the configuration check, the commands
that an illegal configuration stops, the start of a decode, and the two commands of the packing unit. -/

namespace Sys2Proof.Machine

/-! ### The configuration check -/

/-- Settles O20: the check passes on a legal configuration and on no other, with the length `imageBytes`. -/
theorem configCheckPassesExactlyLegalConfigurations : Obligations.ConfigCheckPassesExactlyLegalConfigurations := by
  unfold Obligations.ConfigCheckPassesExactlyLegalConfigurations
  intro r capacity len
  refine ⟨fun passed => ?sound, ?complete⟩
  case sound =>
    have legal := legalConfig_of_checkConfig passed
    rw [checkConfig_of_legal legal] at passed
    cases passed
    exact ⟨legal, rfl⟩
  case complete =>
    rintro ⟨legal, rfl⟩
    exact checkConfig_of_legal legal

/-- The state with the PLANE_LEN that a validation of its configuration writes (40_commands.md R101). -/
def validated (s : State) : State := s.setPlaneLen (BitVec.ofNat 32 (imageBytes s.regs))

/-- A pixel command validates first (60_exceptions.md R207). -/
theorem withIndexedPixel_of_illegal {s : State} (h : ¬LegalConfig s.regs s.capacity)
    (k : State → Nat → Nat → Result) : withIndexedPixel s k = .next (raiseError .validation s) :=
  withValidConfig_of_illegal h _

theorem exec_getIndex (s : State) :
    exec .getIndex s = withIndexedPixel s fun t byte slot =>
      .next (finish (t.setRegs { t.regs with pixData := extractIndex (t.planeRead byte) slot t.depth })) := rfl

theorem exec_setIndex (s : State) :
    exec .setIndex s = withIndexedPixel s fun t byte slot =>
      .next (finish (t.planeWrite byte (insertIndex (t.planeRead byte) slot t.depth t.regs.pixData))) := rfl

/-- Settles O21: each of the four commands begins with the validation. -/
theorem illegalConfigurationRaisesValidationError : Obligations.IllegalConfigurationRaisesValidationError := by
  unfold Obligations.IllegalConfigurationRaisesValidationError
  intro i s command illegal
  simp only [List.mem_cons, List.not_mem_nil, or_false] at command
  rcases command with rfl | rfl | rfl | rfl
  · exact exec_clear_of_illegal illegal
  · exact (exec_decode s).trans (withValidConfig_of_illegal illegal _)
  · exact (exec_getIndex s).trans (withIndexedPixel_of_illegal illegal _)
  · exact (exec_setIndex s).trans (withIndexedPixel_of_illegal illegal _)

/-! ### The start of a decode -/

/-- The state after the EXEC step of a DECODE that goes on (42_rle_decoder.md R140, R141). -/
def afterDecode (s : State) : State := goTo .hdrA (decodeInit (validated s))

theorem exec_decode_of_legalDecode {s : State} (h : LegalDecodeConfig s.regs s.capacity) :
    exec .decode s = .next (afterDecode s) := by
  rw [exec_decode_of_legal h.1, if_neg fun mode => h.2 (congrArg BitVec.toNat mode)]
  rfl

theorem planeRead_afterDecode {s : State} (h : LegalConfig s.regs s.capacity) (k : Nat) :
    (afterDecode s).planeRead k = if k < imageBytes s.regs then 0 else s.planeRead k := planeRead_afterClear h k

/-- The bottom row's number fits in CURSOR_Y. -/
theorem toInt_height_sub_one {r : HostRegs} {capacity : Word} (h : LegalConfig r capacity) :
    (r.height - 1).toInt = (r.height.toNat : Int) - 1 := by
  obtain ⟨_, _, _, _, _, ⟨positive, bound⟩, _⟩ := h
  rw [BitVec.toInt_eq_toNat_of_lt (by bv_omega)]
  bv_omega

/-- Settles O23: the EXEC step validates, fills the image's bytes and sets the cursor. -/
theorem decodeStartsAtTheBottomLeft : Obligations.DecodeStartsAtTheBottomLeft := by
  unfold Obligations.DecodeStartsAtTheBottomLeft
  intro s legal
  refine ⟨afterDecode s, exec_decode_of_legalDecode legal, rfl, toInt_height_sub_one legal.1, ?image, ?above⟩
  case image =>
    intro k hk
    rw [planeRead_afterDecode legal.1, if_pos hk]
  case above =>
    intro k hk
    rw [planeRead_afterDecode legal.1, if_neg (Nat.not_lt.mpr hk)]

/-! ### Pixels of the image -/

/-- Settles O32: byte and slot are quotient and remainder of the pixel's number, which two pixels never share. -/
theorem pixelsHaveTheirOwnSlotInTheImage : Obligations.PixelsHaveTheirOwnSlotInTheImage := by
  unfold Obligations.PixelsHaveTheirOwnSlotInTheImage
  intro r capacity x y x' y' legal hx hy hx' _
  exact ⟨pixelByte_lt_imageBytes (s := (State.resetWith capacity).setRegs r) legal hx hy,
    pixelSlot_lt (s := (State.resetWith capacity).setRegs r) legal x y, pixel_inj hx hx'⟩

/-! ### The pixel commands -/

theorem outsideImage_pix_true {s : State}
    (h : s.imageWidth ≤ s.regs.pixX.toNat ∨ s.imageHeight ≤ s.regs.pixY.toNat) :
    outsideImage s s.regs.pixX.toNat s.regs.pixY.toNat = true := by
  rw [← Bool.not_eq_false, outsideImage_false_iff]
  omega

theorem outsideImage_pix_false {s : State} (hx : s.regs.pixX.toNat < s.imageWidth)
    (hy : s.regs.pixY.toNat < s.imageHeight) : outsideImage s s.regs.pixX.toNat s.regs.pixY.toNat = false := by
  rw [outsideImage_false_iff]
  omega

theorem withIndexedPixel_outside {s : State} (legal : LegalConfig s.regs s.capacity)
    (h : s.imageWidth ≤ s.regs.pixX.toNat ∨ s.imageHeight ≤ s.regs.pixY.toNat) (k : State → Nat → Nat → Result) :
    withIndexedPixel s k = .next (raiseError .bounds (validated s)) := by
  rw [withIndexedPixel, withValidConfig_of_legal legal]
  exact if_pos (outsideImage_pix_true h)

theorem withIndexedPixel_inside {s : State} (legal : LegalConfig s.regs s.capacity)
    (hx : s.regs.pixX.toNat < s.imageWidth) (hy : s.regs.pixY.toNat < s.imageHeight)
    (k : State → Nat → Nat → Result) :
    withIndexedPixel s k =
      k (validated s) (pixelByte s.depth s.imageWidth s.regs.pixX.toNat s.regs.pixY.toNat)
        (pixelSlot s.depth s.imageWidth s.regs.pixX.toNat s.regs.pixY.toNat) := by
  have passed : withIndexedPixel s k =
      withPixel (validated s) s.regs.pixX.toNat s.regs.pixY.toNat (k (validated s)) := by
    rw [withIndexedPixel, withValidConfig_of_legal legal]
    exact if_neg (Bool.eq_false_iff.mp (outsideImage_pix_false hx hy))
  exact passed.trans (if_pos (pixelByte_lt_capacity legal hx hy))

/-- Settles O27: the check of the bounds follows the validation that wrote PLANE_LEN. -/
theorem indexOutsideTheImageRaisesBoundsError : Obligations.IndexOutsideTheImageRaisesBoundsError := by
  unfold Obligations.IndexOutsideTheImageRaisesBoundsError
  intro i s command legal outside
  simp only [List.mem_cons, List.not_mem_nil, or_false] at command
  rcases command with rfl | rfl
  · exact (exec_getIndex s).trans (withIndexedPixel_outside legal outside _)
  · exact (exec_setIndex s).trans (withIndexedPixel_outside legal outside _)

/-- The state after GET_INDEX inside the image (41_packing.md R125). -/
def afterGetIndex (s : State) : State :=
  finish ((validated s).setRegs { s.regs with pixData := s.pixel s.regs.pixX.toNat s.regs.pixY.toNat })

theorem exec_getIndex_inside {s : State} (legal : LegalConfig s.regs s.capacity)
    (hx : s.regs.pixX.toNat < s.imageWidth) (hy : s.regs.pixY.toNat < s.imageHeight) :
    exec .getIndex s = .next (afterGetIndex s) := (exec_getIndex s).trans (withIndexedPixel_inside legal hx hy _)

/-- Settles O25: the pixel's byte and slot are the quotient and the remainder of its number. -/
theorem getIndexReadsThePixel : Obligations.GetIndexReadsThePixel := by
  unfold Obligations.GetIndexReadsThePixel
  rintro s legal hx hy _ _ rfl rfl
  exact exec_getIndex_inside legal hx hy

/-- The state with the cursor at (PIX_X, PIX_Y): SET_INDEX writes the pixel that PutPixel would write there. -/
def atPix (s : State) : State := s.setCounters { s.counters with curX := s.regs.pixX, curY := s.regs.pixY }

/-- The state after SET_INDEX inside the image (41_packing.md R126). -/
def afterSetIndex (s : State) : State :=
  finish ((validated s).setPlane (afterPutPixel s.regs.pixData (atPix s)).plane)

/-- PIX_Y inside the image has the same value as a signed number. -/
theorem toInt_pixY {s : State} (legal : LegalConfig s.regs s.capacity) (hy : s.regs.pixY.toNat < s.imageHeight) :
    (atPix s).counters.curY.toInt.toNat = s.regs.pixY.toNat := by
  obtain ⟨_, _, _, _, _, ⟨_, bound⟩, _⟩ := legal
  have height : s.imageHeight = s.regs.height.toNat := rfl
  have signed : s.regs.pixY.toInt = s.regs.pixY.toNat := BitVec.toInt_eq_toNat_of_lt (by omega)
  exact congrArg Int.toNat signed

theorem exec_setIndex_inside {s : State} (legal : LegalConfig s.regs s.capacity)
    (hx : s.regs.pixX.toNat < s.imageWidth) (hy : s.regs.pixY.toNat < s.imageHeight) :
    exec .setIndex s = .next (afterSetIndex s) := by
  have written : (afterPutPixel s.regs.pixData (atPix s)).plane =
      (s.planeWrite (pixelByte s.depth s.imageWidth s.regs.pixX.toNat s.regs.pixY.toNat)
        (insertIndex (s.planeRead (pixelByte s.depth s.imageWidth s.regs.pixX.toNat s.regs.pixY.toNat))
          (pixelSlot s.depth s.imageWidth s.regs.pixX.toNat s.regs.pixY.toNat) s.depth s.regs.pixData)).plane := by
    rw [← toInt_pixY legal hy]
    rfl
  rw [afterSetIndex, written]
  exact (exec_setIndex s).trans (withIndexedPixel_inside legal hx hy _)

/-- The plane after SET_INDEX is that of the pixel write. -/
theorem pixel_afterSetIndex (s : State) (x y : Nat) :
    (afterSetIndex s).pixel x y = (afterPutPixel s.regs.pixData (atPix s)).pixel x y := rfl

theorem planeRead_afterSetIndex (s : State) (k : Nat) :
    (afterSetIndex s).planeRead k = (afterPutPixel s.regs.pixData (atPix s)).planeRead k := rfl

theorem pixel_afterSetIndex_same {s : State} (legal : LegalConfig s.regs s.capacity)
    (hy : s.regs.pixY.toNat < s.imageHeight) :
    (afterSetIndex s).pixel s.regs.pixX.toNat s.regs.pixY.toNat =
      BitVec.ofNat 8 (s.regs.pixData.toNat % 2 ^ s.depth) := by
  rw [pixel_afterSetIndex, ← toInt_pixY legal hy]
  exact pixel_afterPutPixel_same (s := atPix s) _ legal

/-- Settles O26: the write is that of one pixel, and the lanes of a byte are disjoint. -/
theorem setIndexWritesThePixel : Obligations.SetIndexWritesThePixel := by
  unfold Obligations.SetIndexWritesThePixel
  intro s legal hx hy
  refine ⟨afterSetIndex s, exec_setIndex_inside legal hx hy, rfl, pixel_afterSetIndex_same legal hy,
    fun x y hx' _ ne => ?other, ?byte, fun k ne => ?kept⟩
  case other =>
    rw [pixel_afterSetIndex]
    rw [← toInt_pixY legal hy] at ne
    exact pixel_afterPutPixel_other (s := atPix s) _ legal hx' hx ne
  case byte =>
    rintro _ rfl
    rw [planeRead_afterSetIndex, ← toInt_pixY legal hy]
    exact planeRead_afterPutPixel_same _ (atPix s)
  case kept =>
    rw [planeRead_afterSetIndex]
    rw [← toInt_pixY legal hy] at ne
    exact planeRead_afterPutPixel_other (s := atPix s) _ ne

/-- Settles O53: GET_INDEX reads the pixel that SET_INDEX wrote, with the same configuration. -/
theorem getIndexAfterSetIndexReturnsTheValue : Obligations.GetIndexAfterSetIndexReturnsTheValue := by
  unfold Obligations.GetIndexAfterSetIndexReturnsTheValue
  intro s legal hx hy
  exact ⟨_, _, exec_setIndex_inside legal hx hy, exec_getIndex_inside (s := afterSetIndex s) legal hx hy,
    pixel_afterSetIndex_same legal hy⟩

/-! ### What the commands that validate can do -/

/-- CLEAR raises ValidationError or fills the image (40_commands.md R104). -/
theorem exec_clear_cases (s : State) :
    exec .clear s = .next (raiseError .validation s) ∨
    (LegalConfig s.regs s.capacity ∧ exec .clear s = .next (afterClear s)) := by
  by_cases legal : LegalConfig s.regs s.capacity
  · exact .inr ⟨legal, exec_clear_of_legal legal⟩
  · exact .inl (exec_clear_of_illegal legal)

/-- DECODE raises ValidationError, before or after the validation passed, or starts the decode
(42_rle_decoder.md R140, R142). -/
theorem exec_decode_cases (s : State) :
    exec .decode s = .next (raiseError .validation s) ∨
    exec .decode s = .next (raiseError .validation (validated s)) ∨
    (LegalDecodeConfig s.regs s.capacity ∧ exec .decode s = .next (afterDecode s)) := by
  by_cases legal : LegalConfig s.regs s.capacity
  · by_cases mode : s.regs.mode = 0
    · exact .inr (.inl ((exec_decode_of_legal legal).trans (if_pos mode)))
    · have decodes : LegalDecodeConfig s.regs s.capacity := ⟨legal, fun zero => mode (BitVec.eq_of_toNat_eq zero)⟩
      exact .inr (.inr ⟨decodes, exec_decode_of_legalDecode decodes⟩)
  · exact .inl ((exec_decode s).trans (withValidConfig_of_illegal legal _))

/-- A pixel command raises ValidationError, then BoundsError, or its pixel lies inside a legal image
(60_exceptions.md R207). -/
theorem withIndexedPixel_outcomes (s : State) (k : State → Nat → Nat → Result) :
    withIndexedPixel s k = .next (raiseError .validation s) ∨
    withIndexedPixel s k = .next (raiseError .bounds (validated s)) ∨
    (LegalConfig s.regs s.capacity ∧ s.regs.pixX.toNat < s.imageWidth ∧ s.regs.pixY.toNat < s.imageHeight) := by
  by_cases legal : LegalConfig s.regs s.capacity
  · by_cases outside : s.imageWidth ≤ s.regs.pixX.toNat ∨ s.imageHeight ≤ s.regs.pixY.toNat
    · exact .inr (.inl (withIndexedPixel_outside legal outside k))
    · exact .inr (.inr ⟨legal, by omega, by omega⟩)
  · exact .inl (withIndexedPixel_of_illegal legal k)

theorem exec_getIndex_cases (s : State) :
    exec .getIndex s = .next (raiseError .validation s) ∨
    exec .getIndex s = .next (raiseError .bounds (validated s)) ∨
    exec .getIndex s = .next (afterGetIndex s) := by
  rw [exec_getIndex]
  exact (withIndexedPixel_outcomes s _).imp_right (Or.imp_right fun ⟨legal, hx, hy⟩ =>
    withIndexedPixel_inside legal hx hy _)

theorem exec_setIndex_cases (s : State) :
    exec .setIndex s = .next (raiseError .validation s) ∨
    exec .setIndex s = .next (raiseError .bounds (validated s)) ∨
    (LegalConfig s.regs s.capacity ∧ s.regs.pixX.toNat < s.imageWidth ∧ s.regs.pixY.toNat < s.imageHeight ∧
      exec .setIndex s = .next (afterSetIndex s)) := by
  rw [exec_setIndex]
  exact (withIndexedPixel_outcomes s _).imp_right (Or.imp_right fun ⟨legal, hx, hy⟩ =>
    ⟨legal, hx, hy, exec_setIndex_inside legal hx hy⟩)

end Sys2Proof.Machine
end

section
/-! 20_memory.md sections 1 to 6 and 10_state.md sections 3 and 5: which agent steps, the host's writes and reads, and
the events of the source. -/

namespace Sys2Proof.Machine

/-! ### The engine's turn -/

/-- With no event left, or while the host waits for BUSY = 0, the step is the engine's turn (logs 6, 20). -/
theorem step_of_turn {s : State}
    (h : s.inputs = [] ∨ ∃ rest, s.inputs = .wait :: rest ∧ s.status.busy = true) : step s = engineTurn s := by
  rcases h with none | ⟨_, wait, busy⟩
  · exact step_of_no_event none
  · exact step_of_wait wait busy

theorem step_of_engine {s : State} {rest : List Event} (h : s.inputs = .engine :: rest) :
    step s = engineStep (s.setInputs rest) := step_of_event h (by simp)

/-- A record that is wholly listed is taken in one turn (log 7). -/
theorem engineTurn_of_record {s : State} {i : Instr} {rest : List Byte} (state : s.status.state = .hdrA)
    (decoded : decodeRecord s.depth s.source.bytes = .instr i rest) :
    engineTurn s = exec i (s.setSource { s.source with bytes := rest }) := by
  simp only [engineTurn, state, decoded]

theorem engineTurn_of_no_record {s : State}
    (h : ¬(s.status.state = .hdrA ∧ ∃ i rest, decodeRecord s.depth s.source.bytes = .instr i rest)) :
    engineTurn s = engineStep s := by
  unfold engineTurn
  split
  next state =>
    split
    next i rest decoded => exact absurd ⟨state, i, rest, decoded⟩ h
    next => rfl
  all_goals rfl

theorem engineTurn_of_ne_hdrA {s : State} (h : s.status.state ≠ .hdrA) : engineTurn s = engineStep s :=
  engineTurn_of_no_record fun record => h record.1

theorem engineStep_exec {s : State} (state : s.status.state = .exec) (command : s.scratch.cmd ≠ 0) :
    engineStep s = exec (decodeCommand s.scratch.cmd) s := by
  simp only [engineStep, state, execStep, if_neg command]

/-- Settles O1: the turn takes a record that is wholly listed. -/
theorem stepRunsTheDecodedRecord : Obligations.StepRunsTheDecodedRecord := by
  unfold Obligations.StepRunsTheDecodedRecord
  intro s i rest turn state decoded
  rw [step_of_turn turn]
  exact engineTurn_of_record state decoded

/-- Settles O2: in EXEC the turn is the engine's step, which dispatches on S.CMD. -/
theorem stepRunsTheAcceptedCommand : Obligations.StepRunsTheAcceptedCommand := by
  unfold Obligations.StepRunsTheAcceptedCommand
  intro s rest state command
  refine ⟨fun turn => ?turn, fun event => ?event⟩
  case turn =>
    rw [step_of_turn (turn.imp_right fun wait => ⟨rest, wait⟩),
      engineTurn_of_ne_hdrA (by rw [state]; decide), engineStep_exec state command]
  case event =>
    rw [step_of_engine event]
    exact engineStep_exec (s := s.setInputs rest) state command

/-- Settles O3: only a record that is wholly listed makes the turn more than one engine step. -/
theorem engineTurnIsOneEngineStep : Obligations.EngineTurnIsOneEngineStep := by
  unfold Obligations.EngineTurnIsOneEngineStep
  intro s rest
  refine ⟨step_of_engine, fun turn noRecord => ?_⟩
  rw [step_of_turn (turn.imp_right fun wait => ⟨rest, wait⟩), engineTurn_of_no_record noRecord]

/-! ### The host's writes, by their target -/

theorem hostWriteState_register (s : State) {addr : Word} (data : Word) (h : addr.toNat / 4 < 0x4000) :
    hostWriteState s addr data = writeRegister s (addr.toNat / 4 * 4) data := by
  rw [hostWriteState, hostTarget_register s h]

theorem hostWriteState_planeWord (s : State) {addr : Word} (data : Word) {k : Nat} (h : addr.toNat / 4 = 0x4000 + k)
    (hk : k < planeWords s) : hostWriteState s addr data = unlessBusy s (writeWindowBytes s k data) := by
  rw [hostWriteState, hostTarget_planeWord s h hk]
  rfl

theorem hostWriteState_unmapped (s : State) {addr : Word} (data : Word)
    (h : 0x4000 + planeWords s ≤ addr.toNat / 4) : hostWriteState s addr data = s := by
  rw [hostWriteState, hostTarget_unmapped s h]

/-- The word offsets 0x08 to 0x1C are the registers that BUSY = 1 locks (10_state.md R46). -/
theorem writeRegister_locked (s : State) (data : Word) {n : Nat} (h : 2 ≤ n ∧ n ≤ 7) :
    ∃ regs, writeRegister s (n * 4) data = unlessBusy s (s.setRegs regs) := by
  obtain ⟨low, high⟩ := h
  interval_cases n <;> exact ⟨_, rfl⟩

/-- STATUS, the registers from 0x20 on and the reserved offsets ignore a write (10_state.md R41, R46). -/
theorem writeRegister_readOnly (s : State) (data : Word) {n : Nat} (h : n = 1 ∨ 8 ≤ n) :
    writeRegister s (n * 4) data = s := by
  unfold writeRegister
  split
  case h_8 => rfl
  all_goals omega

/-- A write of a read-only register, of a reserved offset or outside both windows has no effect. -/
theorem hostWriteState_ignored (s : State) {addr : Word} (data : Word)
    (h : addr.toNat / 4 = 1 ∨ 8 ≤ addr.toNat / 4 ∧ addr.toNat / 4 < 0x4000 ∨
      0x4000 + planeWords s ≤ addr.toNat / 4) : hostWriteState s addr data = s := by
  rcases h with status | ⟨low, high⟩ | outside
  · rw [hostWriteState_register s data (by omega)]
    exact writeRegister_readOnly s data (.inl status)
  · rw [hostWriteState_register s data high]
    exact writeRegister_readOnly s data (.inr low)
  · exact hostWriteState_unmapped s data outside

/-- The places a write can lead to, and what it does there: nothing, an acceptance of a command, a register of the
host, or a word of the plane. -/
theorem hostWriteState_cases (s : State) (addr data : Word) :
    hostWriteState s addr data = s ∨
    (addr.toNat / 4 = 0 ∧ data.toNat % 16 ≠ 0 ∧
      hostWriteState s addr data = unlessBusy s (accept (BitVec.ofNat 4 data.toNat) s)) ∨
    (∃ regs, hostWriteState s addr data = unlessBusy s (s.setRegs regs)) ∨
    (∃ k, hostWriteState s addr data = unlessBusy s (writeWindowBytes s k data)) := by
  by_cases ctrl : addr.toNat / 4 = 0
  · by_cases nop : data.toNat % 16 = 0
    · exact .inl ((hostWriteState_ctrl s data ctrl).trans (writeCtrl_nop s nop))
    · exact .inr (.inl ⟨ctrl, nop, (hostWriteState_ctrl s data ctrl).trans (writeCtrl_command s nop)⟩)
  by_cases locked : 2 ≤ addr.toNat / 4 ∧ addr.toNat / 4 ≤ 7
  · rw [hostWriteState_register s data (by omega)]
    exact .inr (.inr (.inl (writeRegister_locked s data locked)))
  by_cases window : 0x4000 ≤ addr.toNat / 4 ∧ addr.toNat / 4 < 0x4000 + planeWords s
  · obtain ⟨k, hk⟩ := Nat.exists_eq_add_of_le window.1
    exact .inr (.inr (.inr ⟨k, hostWriteState_planeWord s data hk (by omega)⟩))
  · exact .inl (hostWriteState_ignored s data (by omega))

theorem planeWords_eq (s : State) : planeWords s = (s.capacity.toNat + 3) / 4 := rfl

/-- Settles O13: a locked place answers a write by IGN alone, every other place by nothing. -/
theorem busyHostWritesOnlySetIgn : Obligations.BusyHostWritesOnlySetIgn := by
  unfold Obligations.BusyHostWritesOnlySetIgn
  intro s addr data rest busy event
  rw [step_of_hostWrite event]
  refine ⟨fun locked => ?locked, fun other => ?other⟩
  case locked =>
    have ignored (stored : State) : unlessBusy (s.setInputs rest) stored = markIgnored (s.setInputs rest) :=
      unlessBusy_busy stored busy
    rcases locked with ⟨ctrl, command⟩ | register | ⟨low, high⟩
    · rw [hostWriteState_ctrl _ data ctrl, writeCtrl_command _ command, ignored]
      rfl
    · obtain ⟨regs, stored⟩ := writeRegister_locked (s.setInputs rest) data register
      rw [hostWriteState_register _ data (by omega), stored, ignored]
      rfl
    · obtain ⟨k, hk⟩ := Nat.exists_eq_add_of_le low
      rw [hostWriteState_planeWord _ data hk (by rw [planeWords_eq, State.setInputs_capacity]; omega), ignored]
      rfl
  case other =>
    rcases other with ⟨ctrl, nop⟩ | readOnly
    · rw [hostWriteState_ctrl _ data ctrl, writeCtrl_nop _ nop]
      rfl
    · rw [hostWriteState_ignored (s.setInputs rest) data readOnly]
      rfl

/-- Settles O14: one arm of the register write for each register. -/
theorem idleHostWritesStoreTheRegister : Obligations.IdleHostWritesStoreTheRegister := by
  unfold Obligations.IdleHostWritesStoreTheRegister
  intro s addr data rest idle event
  have stored (n : Nat) (h : addr.toNat / 4 = n) (hn : n < 0x4000) :
      step s = .next (writeRegister (s.setInputs rest) (n * 4) data) := by
    rw [step_of_hostWrite event, hostWriteState_register _ data (by omega), h]
  have unlocked (t : State) : unlessBusy (s.setInputs rest) t = t := unlessBusy_idle t idle
  have depth : data.extractLsb' 0 5 = BitVec.ofNat 5 data.toNat := rfl
  have mode : data.extractLsb' 8 2 = BitVec.ofNat 2 (data.toNat / 2 ^ 8) := by
    rw [BitVec.extractLsb', Nat.shiftRight_eq_div_pow]
  refine ⟨fun h => ?config, fun h => ?width, fun h => ?height, fun h => ?pixX, fun h => ?pixY, fun h => ?pixData⟩
  case config => rw [stored 2 h (by decide), ← depth, ← mode]; exact congrArg _ (unlocked _)
  case width => rw [stored 3 h (by decide)]; exact congrArg _ (unlocked _)
  case height => rw [stored 4 h (by decide)]; exact congrArg _ (unlocked _)
  case pixX => rw [stored 5 h (by decide)]; exact congrArg _ (unlocked _)
  case pixY => rw [stored 6 h (by decide)]; exact congrArg _ (unlocked _)
  case pixData => rw [stored 7 h (by decide)]; exact congrArg _ (unlocked _)

/-- Settles O15: those writes have no effect, busy or not. -/
theorem readOnlyAndUnmappedWritesAreIgnored : Obligations.ReadOnlyAndUnmappedWritesAreIgnored := by
  unfold Obligations.ReadOnlyAndUnmappedWritesAreIgnored
  intro s addr data rest event readOnly
  rw [step_of_hostWrite event, hostWriteState_ignored (s.setInputs rest) data readOnly]
  rfl

/-! ### The plane window -/

/-- The four byte writes of a word change the plane and nothing else. -/
theorem writeWindowBytes_eq (s : State) (k : Nat) (data : Word) :
    writeWindowBytes s k data = { s with plane := (writeWindowBytes s k data).plane } := by
  rw [writeWindowBytes, writeWindowByte_eq, writeWindowByte_eq _ (4 * k + 2), writeWindowByte_eq _ (4 * k + 1),
    writeWindowByte_eq _ (4 * k)]

/-- Byte `n` after a write of word `k`: the byte of the word in its place, if the plane has one there. -/
theorem planeRead_writeWindowBytes (s : State) (k n : Nat) (data : Word) :
    (writeWindowBytes s k data).planeRead n =
      if 4 * k ≤ n ∧ n < 4 * k + 4 ∧ n < s.capacity.toNat then data.extractLsb' (8 * (n - 4 * k)) 8
      else s.planeRead n := by
  simp only [writeWindowBytes, writeWindowByte_planeRead, writeWindowByte_capacity]
  by_cases word : 4 * k ≤ n ∧ n < 4 * k + 4
  · obtain ⟨j, rfl⟩ := Nat.exists_eq_add_of_le word.1
    have hj : j < 4 := by omega
    by_cases backed : 4 * k + j < s.capacity.toNat
    · interval_cases j <;> simp [backed]
    · interval_cases j <;> simp [backed]
  · rw [if_neg (by omega), if_neg (by omega), if_neg (by omega), if_neg (by omega), if_neg (by omega)]

/-- Settles O16: four byte writes, each below PLANE_CAPACITY. -/
theorem planeWindowWriteStoresFourBytes : Obligations.PlaneWindowWriteStoresFourBytes := by
  unfold Obligations.PlaneWindowWriteStoresFourBytes
  intro s addr data rest k idle event word backed
  have stored : step s = .next (writeWindowBytes (s.setInputs rest) k data) := by
    rw [step_of_hostWrite event, hostWriteState_planeWord _ data word
      (by rw [planeWords_eq, State.setInputs_capacity]; omega)]
    exact congrArg _ (unlessBusy_idle _ idle)
  refine ⟨_, stored, writeWindowBytes_eq _ k data, fun j hj hc => ?inside, fun n other => ?outside⟩
  case inside =>
    rw [planeRead_writeWindowBytes, if_pos ⟨by omega, by omega, hc⟩, Nat.add_sub_cancel_left]
  case outside =>
    rw [planeRead_writeWindowBytes, if_neg (by rw [State.setInputs_capacity]; omega)]
    rfl

/-! ### The host's reads -/

theorem step_of_hostRead {s : State} {addr : Word} {rest : List Event} (h : s.inputs = .hostRead addr :: rest) :
    step s = .next ((s.setInputs rest).setReadData (hostReadValue s addr)) := step_of_event h (by simp)

theorem configWord_eq (r : HostRegs) :
    r.configWord = BitVec.ofNat 32 (r.depth.toNat + 2 ^ 8 * r.mode.toNat) := by
  have depth := r.depth.isLt
  have mode := r.mode.isLt
  apply BitVec.eq_of_toNat_eq
  simp only [HostRegs.configWord, BitVec.toNat_append, BitVec.toNat_ofNat]
  rw [← Nat.shiftLeft_add_eq_or_of_lt depth, ← Nat.shiftLeft_add_eq_or_of_lt (b := 0 % 2 ^ 3) (by decide),
    ← Nat.shiftLeft_add_eq_or_of_lt mode]
  simp only [Nat.shiftLeft_eq]
  omega

/-- The reserved offsets read 0 (10_state.md R41). -/
theorem readRegister_reserved (s : State) {n : Nat} (h : 14 ≤ n) : readRegister s (n * 4) = 0 := by
  unfold readRegister
  split
  case h_15 => rfl
  all_goals omega

/-- Settles O17: one arm of the register read for each register, and 0 elsewhere. -/
theorem registerReadsReturnTheRegisters : Obligations.RegisterReadsReturnTheRegisters := by
  unfold Obligations.RegisterReadsReturnTheRegisters
  intro s addr rest event window
  rw [step_of_hostRead event, hostReadValue, hostTarget_register s (by omega)]
  refine congrArg (fun v => Host.Outcome.next ((s.setInputs rest).setReadData v)) ?_
  by_cases reserved : 14 ≤ addr.toNat / 4
  · simp only [readRegister_reserved s reserved]
    repeat rw [if_neg (by omega)]
  · rw [← configWord_eq, BitVec.ofNat_toNat]
    generalize addr.toNat / 4 = n at reserved
    interval_cases n <;> rfl

/-! ### Fields of a concatenation -/

theorem extractLsb'_append_high {u w : Nat} (hi : BitVec u) (lo : BitVec w) (start len : Nat) :
    (hi ++ lo).extractLsb' (start + w) len = hi.extractLsb' start len := by
  rw [BitVec.extractLsb'_append_eq_of_le (Nat.le_add_left w start), Nat.add_sub_cancel]

theorem getLsbD_append_high {u w : Nat} (hi : BitVec u) (lo : BitVec w) (i : Nat) :
    (hi ++ lo).getLsbD (i + w) = hi.getLsbD i := by
  rw [BitVec.getLsbD_append, if_neg (by omega), Nat.add_sub_cancel]

theorem getLsbD_append_flag {u : Nat} (hi : BitVec u) (flag : Bool) :
    (hi ++ BitVec.ofBool flag).getLsbD 0 = flag := by
  rw [BitVec.getLsbD_append, if_pos Nat.one_pos]
  cases flag <;> rfl

/-- The four flags below the fields of STATUS. -/
theorem extractLsb'_above_flags {u : Nat} (hi : BitVec u) (p q r t : Bool) (start len : Nat) :
    (hi ++ BitVec.ofBool p ++ BitVec.ofBool q ++ BitVec.ofBool r ++ BitVec.ofBool t).extractLsb' (start + 4) len =
      hi.extractLsb' start len :=
  calc _ = _ := extractLsb'_append_high _ (BitVec.ofBool t) (start + 3) len
    _ = _ := extractLsb'_append_high _ (BitVec.ofBool r) (start + 2) len
    _ = _ := extractLsb'_append_high _ (BitVec.ofBool q) (start + 1) len
    _ = _ := extractLsb'_append_high hi (BitVec.ofBool p) start len

/-- Settles O18: each field is one part of the word that STATUS concatenates. -/
theorem statusWordHasTheSpecFields : Obligations.StatusWordHasTheSpecFields := by
  unfold Obligations.StatusWordHasTheSpecFields
  intro st
  have above (start len : Nat) : st.word.extractLsb' (start + 4) len =
      (0#20 ++ st.state.code ++ st.errCode.code).extractLsb' start len := extractLsb'_above_flags _ _ _ _ _ start len
  have errCode : st.word.extractLsb' 4 4 = st.errCode.code := (above 0 4).trans BitVec.extractLsb'_append_eq_right
  have state : st.word.extractLsb' 8 4 = st.state.code :=
    (above 4 4).trans ((extractLsb'_append_high _ st.errCode.code 0 4).trans BitVec.extractLsb'_append_eq_right)
  have zero : st.word.extractLsb' 12 20 = 0 :=
    (above 8 20).trans ((extractLsb'_append_high _ st.errCode.code 4 20).trans BitVec.extractLsb'_append_eq_left)
  refine ⟨getLsbD_append_flag _ st.busy, ?done, ?error, ?ign, ?errCode, ?state, zero⟩
  case done => exact (getLsbD_append_high _ _ 0).trans (getLsbD_append_flag _ st.done)
  case error =>
    exact (getLsbD_append_high _ _ 1).trans ((getLsbD_append_high _ _ 0).trans (getLsbD_append_flag _ st.error))
  case ign =>
    exact (getLsbD_append_high _ _ 2).trans ((getLsbD_append_high _ _ 1).trans
      ((getLsbD_append_high _ _ 0).trans (getLsbD_append_flag _ st.ign)))
  case errCode =>
    rw [errCode]
    cases st.errCode <;> rfl
  case state =>
    rw [state]
    cases st.state <;> rfl

/-! ### Reads of the plane window -/

/-- Byte `j` of a word of the plane window (20_memory.md R62). -/
theorem extract_readPlaneWord {s : State} (idle : s.status.busy = false) (k : Nat) {j : Nat} (hj : j < 4) :
    (readPlaneWord s k).extractLsb' (8 * j) 8 = windowByte s (4 * k + j) := by
  rw [readPlaneWord, if_neg (Bool.eq_false_iff.mp idle)]
  interval_cases j
  · exact BitVec.extractLsb'_append_eq_right
  · exact (extractLsb'_append_high _ _ 0 8).trans BitVec.extractLsb'_append_eq_right
  · exact (extractLsb'_append_high _ _ 8 8).trans
      ((extractLsb'_append_high _ _ 0 8).trans BitVec.extractLsb'_append_eq_right)
  · exact (extractLsb'_append_high _ _ 16 8).trans
      ((extractLsb'_append_high _ _ 8 8).trans BitVec.extractLsb'_append_eq_left)

/-- A word wholly above the plane reads 0, in the window's last word or outside the window. -/
theorem readPlaneWord_beyond (s : State) {k : Nat} (h : s.capacity.toNat ≤ 4 * k) : readPlaneWord s k = 0 := by
  have zero (j : Nat) : windowByte s (4 * k + j) = 0 := if_neg (by omega)
  have zero' : windowByte s (4 * k) = 0 := zero 0
  simp [readPlaneWord, zero, zero']

theorem hostReadValue_planeWindow (s : State) {addr : Word} {k : Nat} (h : addr.toNat / 4 = 0x4000 + k) :
    hostReadValue s addr = readPlaneWord s k := by
  by_cases inWindow : k < planeWords s
  · rw [hostReadValue, hostTarget_planeWord s h inWindow]
  · rw [planeWords_eq] at inWindow
    rw [hostReadValue, hostTarget_unmapped s (by rw [planeWords_eq]; omega)]
    exact (readPlaneWord_beyond s (by omega)).symm

/-- Settles O19: the read is the word's four bytes, and a byte the plane does not have reads 0. -/
theorem planeWindowReadsAreLittleEndian : Obligations.PlaneWindowReadsAreLittleEndian := by
  unfold Obligations.PlaneWindowReadsAreLittleEndian
  intro s addr rest k event word
  refine ⟨readPlaneWord s k, ?_, fun busy => if_pos busy, readPlaneWord_beyond s,
    fun idle j hj => extract_readPlaneWord idle k hj⟩
  rw [step_of_hostRead event, hostReadValue_planeWindow s word]
  rfl

/-! ### The source -/

theorem sReady_iff (s : State) :
    s.sReady = true ↔ s.status.state ∈ [EngineState.hdrA, .hdrB, .deltaX, .deltaY, .absRead] := by
  unfold State.sReady
  cases s.status.state <;> decide

theorem source_next_eq_none_iff (src : Source) :
    src.next = none ↔ src.bytes = [] ∧ (src.rest = .nothing ∨ src.rest = .eof) := by
  refine ⟨fun h => ?_, ?_⟩
  · rcases source_next_eq_none h with rfl | rfl
    · exact ⟨rfl, .inl rfl⟩
    · exact ⟨rfl, .inr rfl⟩
  · obtain ⟨bytes, rest⟩ := src
    rintro ⟨rfl, rfl | rfl⟩
    · rfl
    · rfl

/-- With no byte listed there is no record, so the turn is one engine step. -/
theorem engineTurn_of_no_byte {s : State} (h : s.source.bytes = []) : engineTurn s = engineStep s := by
  refine engineTurn_of_no_record ?_
  rintro ⟨_, i, rest, decoded⟩
  rw [h] at decoded
  cases decoded

/-- Settles O33: the forms of an offer, and the reading states without one. -/
theorem engineHasNoStepWithoutByteOrEof : Obligations.EngineHasNoStepWithoutByteOrEof := by
  unfold Obligations.EngineHasNoStepWithoutByteOrEof
  refine ⟨source_next_cons, source_next_eq_none_iff, source_next_cycle, source_next_free, fun s none reading => ?_⟩
  have waits : engineStep s = .fault .awaitingSource :=
    engineStep_of_nothing ((sReady_iff s).mpr reading) (by rw [none]; rfl) (by rw [none])
  refine ⟨waits, fun noEvent => ?_⟩
  rw [step_of_no_event noEvent, engineTurn_of_no_byte (by rw [none]), waits]

/-- Settles O35: in every reading state EOF is the same error. -/
theorem eofInAReadingStateRaisesTruncationError : Obligations.EofInAReadingStateRaisesTruncationError := by
  unfold Obligations.EofInAReadingStateRaisesTruncationError
  intro s eof reading
  exact engineStep_of_only_eof ((sReady_iff s).mpr reading) eof

end Sys2Proof.Machine
end

section
/-! 10_state.md R35 to R46 and 20_memory.md R68: what no instruction changes, and which bytes it writes. -/

namespace Sys2Proof.Machine

/-! ### What a step keeps -/

/-- What every step of the engine keeps of what surrounds it: CAPACITY, the events to come, the host's read bus, the
draw, and the host registers but PIX_DATA (10_state.md R40, R46). -/
structure KeepsSurroundings (s t : State) : Prop where
  capacity : t.capacity = s.capacity
  inputs : t.inputs = s.inputs
  readData : t.readData = s.readData
  draw : t.draw = s.draw
  regs : t.regs = { s.regs with pixData := t.regs.pixData }

/-- What every instruction keeps: its surroundings and what the source still offers; and under a legal configuration
the plane bytes above the image (10_state.md R44). -/
structure InstrFrame (s t : State) : Prop extends KeepsSurroundings s t where
  source : t.source = s.source
  above : LegalConfig s.regs s.capacity → ∀ k, imageBytes s.regs ≤ k → t.planeRead k = s.planeRead k

/-- What every record keeps besides: PIX_DATA. -/
structure RecordFrame (s t : State) : Prop extends InstrFrame s t where
  allRegs : t.regs = s.regs

theorem RecordFrame.refl (s : State) : RecordFrame s s := ⟨⟨⟨rfl, rfl, rfl, rfl, rfl⟩, rfl, fun _ _ _ => rfl⟩, rfl⟩

theorem RecordFrame.trans {s t u : State} (h : RecordFrame s t) (h' : RecordFrame t u) : RecordFrame s u where
  capacity := h'.capacity.trans h.capacity
  inputs := h'.inputs.trans h.inputs
  readData := h'.readData.trans h.readData
  draw := h'.draw.trans h.draw
  regs := by rw [h'.allRegs, h.allRegs]
  source := h'.source.trans h.source
  allRegs := h'.allRegs.trans h.allRegs
  above := fun legal k hk => by
    have legal' : LegalConfig t.regs t.capacity := by rw [h.allRegs, h.capacity]; exact legal
    rw [h'.above legal' k (by rw [h.allRegs]; exact hk), h.above legal k hk]

/-- A state that differs in STATUS, the cursor and counters, PLANE_LEN, the datapath registers and LIT_BUF only. -/
theorem RecordFrame.of_same_plane {s t : State}
    (h : t = { s with status := t.status, counters := t.counters, planeLen := t.planeLen, scratch := t.scratch,
                      litBuf := t.litBuf }) : RecordFrame s t := by
  rw [h]
  exact ⟨⟨⟨rfl, rfl, rfl, rfl, rfl⟩, rfl, fun _ _ _ => rfl⟩, rfl⟩

/-! ### The frame of each record operation -/

theorem frame_readHeader (a b : Byte) (s : State) : RecordFrame s (readHeader a b s) := .of_same_plane rfl

theorem frame_enterRun (s : State) : RecordFrame s (enterRun s) := .of_same_plane rfl

theorem frame_latchDx (dx : Byte) (s : State) : RecordFrame s (latchDx dx (countByte (enterDelta s))) :=
  .of_same_plane rfl

theorem frame_moveByDelta (dy : Byte) (s : State) : RecordFrame s (moveByDelta dy (countByte s)) :=
  .of_same_plane rfl

theorem frame_afterLiteral (r : Byte) (s : State) : RecordFrame s (afterLiteral r s) :=
  .of_same_plane (by rw [afterLiteral_frame])

/-- The pixel at a cursor inside the image lies in a byte of the image. -/
theorem frame_afterPutPixel (v : Byte) {s : State}
    (inside : outsideImage s s.counters.curX.toNat s.counters.curY.toInt = false) :
    RecordFrame s (afterPutPixel v s) := by
  refine ⟨⟨⟨rfl, rfl, rfl, rfl, rfl⟩, rfl, fun legal k hk => planeRead_afterPutPixel_other v ?_⟩, rfl⟩
  obtain ⟨⟨_, hx⟩, hy, hy'⟩ := (outsideImage_false_iff s _ _).mp inside
  have inImage := pixelByte_lt_imageBytes (x := s.counters.curX.toNat) (y := s.counters.curY.toInt.toNat) legal
    (by omega) (by omega)
  omega

/-- Either pixel step is the pixel write, and then changes of the cursor, the datapath registers and STATUS. -/
theorem frame_afterPixel {v : Byte} {s t : State}
    (inside : outsideImage s s.counters.curX.toNat s.counters.curY.toInt = false)
    (h : t = { afterPutPixel v s with counters := t.counters, scratch := t.scratch, status := t.status }) :
    RecordFrame s t :=
  (frame_afterPutPixel v inside).trans (.of_same_plane (by rw [h]))

theorem frame_runStep {s t : State} (h : runStep s = .next t) : RecordFrame s t := by
  rcases runStep_cases s with ⟨_, e⟩ | ⟨_, j, _, e⟩ | ⟨inside, _, e⟩
  · cases e.symm.trans h
    exact .of_same_plane rfl
  · cases e.symm.trans h
  · cases e.symm.trans h
    refine frame_afterPixel
      (v := extractIndex s.scratch.b (s.scratch.i.toNat % pixelsPerByte s.depth) s.depth) inside ?_
    simp only [afterRunStep]
    split <;> rfl

theorem frame_absEmitStep {s t : State} (h : absEmitStep s = .next t) : RecordFrame s t := by
  rcases absEmitStep_cases s with ⟨_, e⟩ | ⟨_, j, _, e⟩ | ⟨inside, _, e⟩
  · cases e.symm.trans h
    exact .of_same_plane rfl
  · cases e.symm.trans h
  · cases e.symm.trans h
    refine frame_afterPixel
      (v := extractIndex (s.litRead (s.scratch.i.toNat / pixelsPerByte s.depth))
        (s.scratch.i.toNat % pixelsPerByte s.depth) s.depth) inside ?_
    simp only [afterAbsEmitStep]
    split <;> rfl

theorem frame_pixelSteps {n : Nat} {s t : State} (h : pixelSteps n s = .next t) : RecordFrame s t := by
  induction n generalizing s with
  | zero => cases h; exact .refl _
  | succ n ih =>
    by_cases run : s.status.state = .run
    · rw [pixelSteps_run n run] at h
      obtain ⟨u, first, others⟩ := andThen_next_cases h
      exact (frame_runStep first).trans (ih others)
    by_cases absEmit : s.status.state = .absEmit
    · rw [pixelSteps_absEmit n absEmit] at h
      obtain ⟨u, first, others⟩ := andThen_next_cases h
      exact (frame_absEmitStep first).trans (ih others)
    · rw [pixelSteps_stop (n + 1) run absEmit] at h
      cases h
      exact .refl _

theorem frame_readLiterals {literal : List Byte} {s t : State} (h : readLiterals literal s = .next t) :
    RecordFrame s t := by
  induction literal generalizing s with
  | nil => cases h; exact .refl _
  | cons r rs ih =>
    obtain ⟨u, first, others⟩ := andThen_next_cases h
    have counted : RecordFrame s (countByte s) := .of_same_plane rfl
    rcases latchLiteral_cases r (countByte s) with ⟨_, e⟩ | ⟨_, e⟩
    · cases e.symm.trans first
      exact (counted.trans (frame_afterLiteral r _)).trans (ih others)
    · cases e.symm.trans first

/-! ### The frame of each instruction -/

/-- A zero fill of the image leaves the bytes above it. -/
theorem frame_zeroFill {s : State} (legal : LegalConfig s.regs s.capacity) :
    RecordFrame s (zeroFill (validated s)) := by
  refine ⟨⟨⟨rfl, rfl, rfl, rfl, rfl⟩, rfl, fun _ k hk => ?_⟩, rfl⟩
  exact (planeRead_afterClear legal k).trans (if_neg (Nat.not_lt.mpr hk))

theorem frame_clear {s t : State} (h : exec .clear s = .next t) : RecordFrame s t := by
  rcases exec_clear_cases s with e | ⟨legal, e⟩ <;> cases e.symm.trans h
  · exact .of_same_plane rfl
  · exact (frame_zeroFill legal).trans (.of_same_plane rfl)

theorem frame_decode {s t : State} (h : exec .decode s = .next t) : RecordFrame s t := by
  rcases exec_decode_cases s with e | e | ⟨legal, e⟩ <;> cases e.symm.trans h
  · exact .of_same_plane rfl
  · exact .of_same_plane rfl
  · exact (frame_zeroFill legal.1).trans (.of_same_plane rfl)

theorem frame_getIndex {s t : State} (h : exec .getIndex s = .next t) : InstrFrame s t := by
  rcases exec_getIndex_cases s with e | e | e <;> cases e.symm.trans h
  · exact (RecordFrame.of_same_plane rfl).toInstrFrame
  · exact (RecordFrame.of_same_plane rfl).toInstrFrame
  · exact ⟨⟨rfl, rfl, rfl, rfl, rfl⟩, rfl, fun _ _ _ => rfl⟩

theorem planeRead_afterSetIndex_above {s : State} (legal : LegalConfig s.regs s.capacity)
    (hx : s.regs.pixX.toNat < s.imageWidth) (hy : s.regs.pixY.toNat < s.imageHeight) {k : Nat}
    (hk : imageBytes s.regs ≤ k) : (afterSetIndex s).planeRead k = s.planeRead k := by
  have inImage := pixelByte_lt_imageBytes legal hx hy
  rw [← toInt_pixY legal hy] at inImage
  exact planeRead_afterPutPixel_other (s := atPix s) _ (Nat.ne_of_gt (Nat.lt_of_lt_of_le inImage hk))

theorem frame_setIndex {s t : State} (h : exec .setIndex s = .next t) : RecordFrame s t := by
  rcases exec_setIndex_cases s with e | e | ⟨legal, hx, hy, e⟩ <;> cases e.symm.trans h
  · exact .of_same_plane rfl
  · exact .of_same_plane rfl
  · exact ⟨⟨⟨rfl, rfl, rfl, rfl, rfl⟩, rfl, fun _ _ => planeRead_afterSetIndex_above legal hx hy⟩, rfl⟩

/-- Every instruction but GET_INDEX keeps what a record keeps. -/
theorem recordFrame_exec {i : Instr} {s t : State} (h : exec i s = .next t) (hi : i ≠ .getIndex) :
    RecordFrame s t := by
  cases i with
  | encodedRun a b => exact ((frame_readHeader a b s).trans (frame_enterRun _)).trans (frame_pixelSteps h)
  | absolute b literal =>
    obtain ⟨u, literals, pixels⟩ := andThen_next_cases h
    have entered : RecordFrame (readHeader 0 b s) (enterAbsolute b (readHeader 0 b s)) := .of_same_plane rfl
    exact (((frame_readHeader 0 b s).trans entered).trans (frame_readLiterals literals)).trans
      (frame_pixelSteps pixels)
  | clear => exact frame_clear h
  | decode => exact frame_decode h
  | setIndex => exact frame_setIndex h
  | getIndex => exact absurd rfl hi
  | eol => cases h; exact (frame_readHeader 0 0 s).trans (.of_same_plane rfl)
  | eob => cases h; exact (frame_readHeader 0 1 s).trans (.of_same_plane rfl)
  | delta dx dy =>
    cases h
    exact ((frame_readHeader 0 2 s).trans (frame_latchDx dx _)).trans (frame_moveByDelta dy _)
  | nop => cases h; exact .refl _
  | reserved5 | reserved6 | reserved7 | reserved8 | reserved9 | reserved10 | reserved11 | reserved12 | reserved13
  | reserved14 | reserved15 => cases h; exact .of_same_plane rfl

theorem instrFrame_exec {i : Instr} {s t : State} (h : exec i s = .next t) : InstrFrame s t := by
  by_cases getIndex : i = .getIndex
  · subst getIndex
    exact frame_getIndex h
  · exact (recordFrame_exec h getIndex).toInstrFrame

/-- Settles O49: one frame for each operation, and GET_INDEX apart. -/
theorem instructionsKeepTheHostRegisters : Obligations.InstructionsKeepTheHostRegisters := by
  unfold Obligations.InstructionsKeepTheHostRegisters
  intro i s t h
  obtain ⟨⟨capacity, inputs, readData, draw, regs⟩, source, _⟩ := instrFrame_exec h
  exact ⟨capacity, source, inputs, readData, draw, regs, fun hi => by rw [(recordFrame_exec h hi).allRegs]⟩

/-- Settles O51: every pixel written lies in the image, and a fill ends with it. -/
theorem instructionsWriteOnlyImageBytes : Obligations.InstructionsWriteOnlyImageBytes := by
  unfold Obligations.InstructionsWriteOnlyImageBytes
  intro i s t k h legal hk
  exact (instrFrame_exec h).above legal k hk

/-- Settles O50: outside the records and DECODE no operation on the cursor, the counters or a buffer is reached. -/
theorem onlyDecodeMovesTheCursor : Obligations.OnlyDecodeMovesTheCursor := by
  unfold Obligations.OnlyDecodeMovesTheCursor
  intro i s t other h
  cases i with
  | encodedRun | eol | eob | delta | absolute | decode => simp at other
  | clear => rcases exec_clear_cases s with e | ⟨_, e⟩ <;> cases e.symm.trans h <;> exact ⟨rfl, rfl, rfl⟩
  | getIndex => rcases exec_getIndex_cases s with e | e | e <;> cases e.symm.trans h <;> exact ⟨rfl, rfl, rfl⟩
  | setIndex =>
    rcases exec_setIndex_cases s with e | e | ⟨_, _, _, e⟩ <;> cases e.symm.trans h <;> exact ⟨rfl, rfl, rfl⟩
  | nop | reserved5 | reserved6 | reserved7 | reserved8 | reserved9 | reserved10 | reserved11 | reserved12
  | reserved13 | reserved14 | reserved15 => cases h; exact ⟨rfl, rfl, rfl⟩

end Sys2Proof.Machine
end

section
/-! 70_reset_and_hazards.md R230, 20_memory.md R66, R68 and 10_state.md R27: reset, the source's events, `wait`, and
the events that keep an error. -/

namespace Sys2Proof.Machine

/-! ### Reset -/

/-- With the registers of reset the depth is 0, which no configuration allows. -/
theorem not_legalConfig_afterReset (capacity : Word) : ¬LegalConfig HostRegs.afterReset capacity := by
  rintro ⟨depth, _⟩
  exact absurd depth (by decide)

/-- Settles O9: the values of the reset state, and the commands with its configuration. -/
theorem resetLeavesTheSpecValues : Obligations.ResetLeavesTheSpecValues := by
  unfold Obligations.ResetLeavesTheSpecValues
  exact ⟨rfl, rfl, rfl, rfl, rfl, rfl, rfl, fun _ => rfl, fun _ => rfl, rfl, fun i command =>
    illegalConfigurationRaisesValidationError i State.reset command (not_legalConfig_afterReset _)⟩

/-- Settles O10: the event is `resetBlock`, whatever the state. -/
theorem resetEventRestoresTheResetValues : Obligations.ResetEventRestoresTheResetValues := by
  unfold Obligations.ResetEventRestoresTheResetValues
  intro s rest event
  exact ⟨resetBlock (s.setInputs rest), step_of_event event (by simp), rfl, rfl, rfl, rfl, rfl, fun _ => rfl,
    fun _ => rfl, rfl, rfl, rfl, rfl, rfl⟩

/-! ### What every step of the engine keeps -/

theorem KeepsSurroundings.of_same {s t : State}
    (h : t = { s with status := t.status, counters := t.counters, scratch := t.scratch, litBuf := t.litBuf,
                      source := t.source }) : KeepsSurroundings s t := by
  rw [h]
  exact ⟨rfl, rfl, rfl, rfl, rfl⟩

/-- A reading step changes what the byte changes, or raises TruncationError. -/
theorem keeps_srcRead {s t : State} {k : Byte → State → Result} (h : srcRead s k = .next t)
    (hk : ∀ r u, k r (countByte (s.setSource u)) = .next t → KeepsSurroundings s t) : KeepsSurroundings s t := by
  rcases srcRead_cases s k with ⟨r, src, _, e⟩ | ⟨_, e⟩ | ⟨_, e⟩
  · exact hk r src (e.symm.trans h)
  · cases e.symm.trans h
    exact .of_same rfl
  · cases e.symm.trans h

theorem keeps_latchLiteral {s t : State} {r : Byte} (h : latchLiteral r s = .next t) : KeepsSurroundings s t := by
  rcases latchLiteral_cases r s with ⟨_, e⟩ | ⟨_, e⟩
  · cases e.symm.trans h
    exact (frame_afterLiteral r s).toKeepsSurroundings
  · cases e.symm.trans h

theorem keeps_dispatchHeader (r : Byte) (s : State) : KeepsSurroundings s (dispatchHeader r s) :=
  .of_same (by rw [(dispatchHeader_frame r s).1])

/-- One engine step, in whatever state. -/
theorem keeps_engineStep {s t : State} (h : engineStep s = .next t) : KeepsSurroundings s t := by
  cases state : s.status.state with
  | idle => simp [engineStep, state] at h
  | exec =>
    by_cases command : s.scratch.cmd = 0
    · simp [engineStep, state, execStep, command] at h
    · rw [engineStep_exec state command] at h
      exact (instrFrame_exec h).toKeepsSurroundings
  | hdrA =>
    rw [engineStep_hdrA state] at h
    exact keeps_srcRead h fun r src e => by cases e; exact .of_same rfl
  | hdrB =>
    rw [engineStep_hdrB state] at h
    exact keeps_srcRead h fun r src e => by
      cases e
      obtain ⟨capacity, inputs, readData, draw, regs⟩ :=
        keeps_dispatchHeader r (latchB r (countByte (s.setSource src)))
      exact ⟨capacity, inputs, readData, draw, regs⟩
  | run => rw [engineStep_run state] at h; exact (frame_runStep h).toKeepsSurroundings
  | deltaX =>
    rw [engineStep_deltaX state] at h
    exact keeps_srcRead h fun r src e => by cases e; exact .of_same rfl
  | deltaY =>
    rw [engineStep_deltaY state] at h
    exact keeps_srcRead h fun r src e => by cases e; exact .of_same rfl
  | absRead =>
    rw [engineStep_absRead state] at h
    exact keeps_srcRead h fun r src e => by
      obtain ⟨capacity, inputs, readData, draw, regs⟩ := keeps_latchLiteral e
      exact ⟨capacity, inputs, readData, draw, regs⟩
  | absEmit => rw [engineStep_absEmit state] at h; exact (frame_absEmitStep h).toKeepsSurroundings

/-- The engine's turn, a whole record included. -/
theorem keeps_engineTurn {s t : State} (h : engineTurn s = .next t) : KeepsSurroundings s t := by
  by_cases record : s.status.state = .hdrA ∧ ∃ i rest, decodeRecord s.depth s.source.bytes = .instr i rest
  · obtain ⟨state, i, rest, decoded⟩ := record
    rw [engineTurn_of_record state decoded] at h
    obtain ⟨capacity, inputs, readData, draw, regs⟩ := (instrFrame_exec h).toKeepsSurroundings
    exact ⟨capacity, inputs, readData, draw, regs⟩
  · rw [engineTurn_of_no_record record] at h
    exact keeps_engineStep h

/-! ### The source's events and `wait` -/

/-- Settles O34: each event changes the offer alone, and `wait` is taken off once BUSY = 0. -/
theorem sourceEventsChangeTheOfferAndWaitLetsTheEngineRun :
    Obligations.SourceEventsChangeTheOfferAndWaitLetsTheEngineRun := by
  unfold Obligations.SourceEventsChangeTheOfferAndWaitLetsTheEngineRun
  intro s events
  refine ⟨fun b event => ?byte, fun event => ?eof, fun b bs event => ?cycle, fun stream event => ?free,
    fun event => ?start, fun event idle => ?ended, fun event busy => ?waiting⟩
  case byte =>
    rw [step_of_event event (by simp), eventStep, offerByte_eq]
    by_cases rest : s.source.rest = .nothing <;> simp [State.setSource, State.setInputs, rest]
  case eof =>
    rw [step_of_event event (by simp), eventStep, offerRest_eq]
    rfl
  case cycle =>
    rw [step_of_event event (by simp), eventStep, offerRest_eq]
    rfl
  case free =>
    rw [step_of_event event (by simp), eventStep, offerRest_eq]
    rfl
  case start =>
    rw [step_of_event event (by simp), eventStep, startStream_eq]
    by_cases job : jobRuns s = true
    · have runs : ¬(s.status.state = .idle ∨ s.status.state = .exec) := by
        rw [← jobRuns_eq_false_iff, job]
        decide
      rw [if_pos (show jobRuns (s.setInputs events) = true from job), if_neg runs]
      rfl
    · rw [if_neg (show ¬jobRuns (s.setInputs events) = true from job),
        if_pos ((jobRuns_eq_false_iff s).mp (Bool.not_eq_true _ ▸ job))]
      rfl
  case ended => exact step_of_event event (by simp [idle])
  case waiting =>
    rw [step_of_wait event busy]
    exact ⟨rfl, fun t turn => (keeps_engineTurn turn).inputs⟩

/-! ### Errors -/

/-- STATUS is kept but for IGN, which may be set. -/
def KeepsStatusUpToIgn (s t : State) : Prop :=
  t.status = { s.status with ign := t.status.ign } ∧ (s.status.ign = true → t.status.ign = true)

theorem keepsStatusUpToIgn_of_eq {s t : State} (h : t.status = s.status) : KeepsStatusUpToIgn s t :=
  ⟨by rw [h], fun ign => by rw [h, ign]⟩

/-- A write that BUSY = 1 locks sets IGN; one that is stored keeps STATUS. -/
theorem keepsStatusUpToIgn_unlessBusy {s stored : State} (h : s.status.busy = true ∨ stored.status = s.status) :
    KeepsStatusUpToIgn s (unlessBusy s stored) := by
  by_cases busy : s.status.busy = true
  · rw [unlessBusy_busy stored busy]
    exact ⟨rfl, fun _ => rfl⟩
  · rw [unlessBusy_idle stored (Bool.not_eq_true _ ▸ busy)]
    exact keepsStatusUpToIgn_of_eq (h.resolve_left busy)

theorem writeWindowBytes_status (s : State) (k : Nat) (data : Word) :
    (writeWindowBytes s k data).status = s.status := by
  rw [writeWindowBytes_eq]

/-- A host write other than an acceptance keeps STATUS up to IGN. -/
theorem keepsStatusUpToIgn_hostWrite (s : State) {addr data : Word}
    (h : addr.toNat / 4 = 0 → s.status.busy = true ∨ data.toNat % 16 = 0) :
    KeepsStatusUpToIgn s (hostWriteState s addr data) := by
  rcases hostWriteState_cases s addr data with e | ⟨ctrl, command, e⟩ | ⟨regs, e⟩ | ⟨k, e⟩ <;> rw [e]
  · exact keepsStatusUpToIgn_of_eq rfl
  · exact keepsStatusUpToIgn_unlessBusy ((h ctrl).imp_right fun nop => absurd nop command)
  · exact keepsStatusUpToIgn_unlessBusy (.inr rfl)
  · exact keepsStatusUpToIgn_unlessBusy (.inr (writeWindowBytes_status s k data))

theorem offerByte_status (b : Byte) (s : State) : (offerByte b s).status = s.status := by
  rw [offerByte_eq, State.setSource_status]

theorem offerRest_status (rest : SourceRest) (s : State) : (offerRest rest s).status = s.status := by
  rw [offerRest_eq, State.setSource_status]

theorem startStream_status (s : State) : (startStream s).status = s.status := by
  rw [startStream_eq, State.setSource_status]

/-- Settles O52: of the events that are left only a host write that is ignored touches STATUS. -/
theorem errorStaysUntilAcceptanceOrReset : Obligations.ErrorStaysUntilAcceptanceOrReset := by
  unfold Obligations.ErrorStaysUntilAcceptanceOrReset
  intro s t e rest event noReset noEngine noWait noAcceptance stepped
  rw [step_of_event event noWait] at stepped
  cases e with
  | hostWrite addr data =>
    cases (hostWriteStep_eq addr data _).symm.trans stepped
    exact keepsStatusUpToIgn_hostWrite (s.setInputs rest) (noAcceptance addr data rfl)
  | hostRead addr => cases stepped; exact keepsStatusUpToIgn_of_eq rfl
  | wait => cases stepped; exact keepsStatusUpToIgn_of_eq rfl
  | engine => exact absurd rfl noEngine
  | sourceByte b => cases stepped; exact keepsStatusUpToIgn_of_eq (offerByte_status b _)
  | sourceEof => cases stepped; exact keepsStatusUpToIgn_of_eq (offerRest_status _ _)
  | sourceCycle b bs => cases stepped; exact keepsStatusUpToIgn_of_eq (offerRest_status _ _)
  | sourceFree stream => cases stepped; exact keepsStatusUpToIgn_of_eq (offerRest_status _ _)
  | sourceStart => cases stepped; exact keepsStatusUpToIgn_of_eq (startStream_status _)
  | reset => exact absurd rfl noReset

end Sys2Proof.Machine
end

section
/-! The invariant under each operation: what surrounds the block, the memories, STATUS, the registers, and the steps
of a decode. -/

namespace Sys2Proof.Machine

/-! ### The parts of the invariant -/

/-- What the invariant says of PLANE_CAPACITY and the two memories. -/
structure MemoryInv (capacity : Word) (plane litBuf : Memory) : Prop where
  bounds : 1 ≤ capacity.toNat ∧ capacity.toNat ≤ 2 ^ 32 - 2 ^ 16
  planeWf : Memory.wf plane = true
  planeBelow : Memory.below capacity.toNat plane = true
  litWf : Memory.wf litBuf = true
  litBelow : Memory.below 256 litBuf = true

/-- What the invariant says of STATUS alone. -/
structure StatusInv (st : Status) : Prop where
  busyState : st.busy = true ↔ st.state ≠ .idle
  doneError : ¬(st.done = true ∧ st.error = true)
  busyClear : st.busy = true → st.done = false ∧ st.error = false
  errorCode : st.error = true ↔ st.errCode ≠ .noError

theorem Inv.of_parts {s : State} (memory : MemoryInv s.capacity s.plane s.litBuf) (status : StatusInv s.status)
    (execCommand : s.status.state = .exec → s.scratch.cmd ≠ 0) (job : jobRuns s = true → JobInv s) : Inv s :=
  ⟨memory.bounds, status.busyState, status.doneError, status.busyClear, status.errorCode, execCommand, job,
    memory.planeWf, memory.planeBelow, memory.litWf, memory.litBelow⟩

theorem Inv.memory {s : State} (h : Inv s) : MemoryInv s.capacity s.plane s.litBuf :=
  ⟨h.capacity, h.planeWf, h.planeBelow, h.litWf, h.litBelow⟩

theorem Inv.statusInv {s : State} (h : Inv s) : StatusInv s.status :=
  ⟨h.busyState, h.doneError, h.busyClear, h.errorCode⟩

/-! ### STATUS -/

theorem statusInv_afterReset : StatusInv Status.afterReset := ⟨by decide, by decide, by decide, by decide⟩

theorem statusInv_raised {st : Status} {e : ErrCode} (h : StatusInv st) (busy : st.busy = true)
    (error : e ≠ .noError) : StatusInv (Status.raised e st) :=
  ⟨by simp, by simp [(h.busyClear busy).1], by simp, by simpa using error⟩

theorem statusInv_finished {st : Status} (h : StatusInv st) (busy : st.busy = true) :
    StatusInv (Status.finished st) :=
  ⟨by simp, by simp [(h.busyClear busy).2], by simp, h.errorCode⟩

theorem statusInv_accepted (st : Status) : StatusInv (Status.accepted st) := ⟨by simp, by simp, by simp, by simp⟩

theorem statusInv_ignored {st : Status} (h : StatusInv st) : StatusInv (Status.ignored st) :=
  ⟨h.busyState, h.doneError, h.busyClear, h.errorCode⟩

theorem statusInv_goTo {st : Status} {x : EngineState} (h : StatusInv st) (busy : st.busy = true) (hx : x ≠ .idle) :
    StatusInv (Status.goTo x st) :=
  ⟨by simp [busy, hx], h.doneError, h.busyClear, h.errorCode⟩

/-! ### After reset -/

theorem memoryInv_afterReset {capacity : Word} (h : 1 ≤ capacity.toNat ∧ capacity.toNat ≤ 2 ^ 32 - 2 ^ 16) :
    MemoryInv capacity [] [] := ⟨h, rfl, rfl, rfl, rfl⟩

theorem inv_resetBlock {s : State} (h : Inv s) : Inv (resetBlock s) :=
  .of_parts (memoryInv_afterReset h.capacity) statusInv_afterReset (by rintro ⟨⟩) (by rintro ⟨⟩)

theorem inv_resetWith {capacity : Word} (h : 1 ≤ capacity.toNat ∧ capacity.toNat ≤ 2 ^ 32 - 2 ^ 16) :
    Inv (State.resetWith capacity) :=
  .of_parts (memoryInv_afterReset h) statusInv_afterReset (by rintro ⟨⟩) (by rintro ⟨⟩)

/-- The open parameter lies in its bounds (00_scope.md R8). -/
theorem planeCapacity_bounds :
    1 ≤ Config.planeCapacity.toNat ∧ Config.planeCapacity.toNat ≤ 2 ^ 32 - 2 ^ 16 := by
  have last := Config.planeCapacityLast.isLt
  rw [Config.planeCapacity, BitVec.toNat_ofNat]
  omega

/-- Settles O54: the invariant of the reset state, at the open capacity and at every other. -/
theorem resetSatisfiesTheInvariant : Obligations.ResetSatisfiesTheInvariant := by
  unfold Obligations.ResetSatisfiesTheInvariant
  exact ⟨inv_resetWith planeCapacity_bounds, fun _ low high => inv_resetWith ⟨low, high⟩⟩

/-! ### What a decode rests on -/

/-- A job is in order where its configuration, cursor, counters and datapath registers are. -/
theorem JobInv.congr {s t : State} (h : JobInv s) (capacity : t.capacity = s.capacity) (regs : t.regs = s.regs)
    (planeLen : t.planeLen = s.planeLen) (counters : t.counters = s.counters) (scratch : t.scratch = s.scratch)
    (state : t.status.state = s.status.state) : JobInv t := by
  obtain ⟨command, config, length, cursor, written, fits⟩ := h
  refine ⟨?_, ?_, ?_, ?_, ?_, ?_⟩
  · rw [scratch]; exact command
  · rw [regs, capacity]; exact config
  · rw [planeLen, regs]; exact length
  · unfold CursorInRange State.imageWidth State.imageHeight at *
    rw [counters, regs]; exact cursor
  · unfold pixelsBefore State.imageWidth State.imageHeight at *
    rw [counters, regs]; exact written
  · unfold ScratchFits State.depth at *
    rw [state, scratch, regs]; exact fits

theorem busy_of_job {s : State} (h : Inv s) (job : jobRuns s = true) : s.status.busy = true := by
  refine h.busyState.mpr fun idle => ?_
  rw [(jobRuns_eq_false_iff s).mpr (.inl idle)] at job
  cases job

theorem not_job_of_exec {s : State} (state : s.status.state = .exec) : jobRuns s = false :=
  (jobRuns_eq_false_iff s).mpr (.inr state)

theorem not_job_of_not_busy {s : State} (h : Inv s) (idle : s.status.busy = false) : jobRuns s = false := by
  refine (jobRuns_eq_false_iff s).mpr (.inl (of_not_not fun running => ?_))
  rw [h.busyState.mpr running] at idle
  cases idle

theorem jobRuns_congr {s t : State} (h : t.status.state = s.status.state) : jobRuns t = jobRuns s := by
  unfold jobRuns
  rw [h]

/-! ### Operations outside the decode -/

/-- The invariant does not speak of what surrounds the block. -/
theorem inv_surroundings {s : State} (h : Inv s) (source : Source) (inputs : List Event) (readData : Word) :
    Inv { s with source := source, inputs := inputs, readData := readData } :=
  .of_parts h.memory h.statusInv h.execCommand fun job => (h.job job).congr rfl rfl rfl rfl rfl rfl

theorem inv_setSource {s : State} (h : Inv s) (source : Source) : Inv (s.setSource source) :=
  inv_surroundings h source s.inputs s.readData

theorem inv_setInputs {s : State} (h : Inv s) (inputs : List Event) : Inv (s.setInputs inputs) :=
  inv_surroundings h s.source inputs s.readData

theorem inv_setReadData {s : State} (h : Inv s) (readData : Word) : Inv (s.setReadData readData) :=
  inv_surroundings h s.source s.inputs readData

/-- Nor does it speak of the bytes in the memories. -/
theorem inv_memories {s : State} (h : Inv s) {plane litBuf : Memory} (memory : MemoryInv s.capacity plane litBuf) :
    Inv { s with plane := plane, litBuf := litBuf } :=
  .of_parts memory h.statusInv h.execCommand fun job => (h.job job).congr rfl rfl rfl rfl rfl rfl

theorem inv_setPlane {s : State} (h : Inv s) {m : Memory} (wf : Memory.wf m = true)
    (below : Memory.below s.capacity.toNat m = true) : Inv (s.setPlane m) :=
  inv_memories h ⟨h.capacity, wf, below, h.litWf, h.litBelow⟩

theorem inv_planeWrite {s : State} (h : Inv s) {k : Nat} (v : Byte) (backed : k < s.capacity.toNat) :
    Inv (s.planeWrite k v) :=
  inv_setPlane h (wf_store k v s.plane h.planeWf) (below_store v backed h.planeBelow)

theorem inv_litWrite {s : State} (h : Inv s) {k : Nat} (v : Byte) (backed : k < 256) : Inv (s.litWrite k v) :=
  inv_memories h
    ⟨h.capacity, h.planeWf, h.planeBelow, wf_store k v s.litBuf h.litWf, below_store v backed h.litBelow⟩

/-- While no job runs, the registers and PLANE_LEN are free. -/
theorem inv_registers {s : State} (h : Inv s) (noJob : jobRuns s = false) (regs : HostRegs) (planeLen : Word) :
    Inv { s with regs := regs, planeLen := planeLen } :=
  .of_parts h.memory h.statusInv h.execCommand fun job => absurd job (Bool.eq_false_iff.mp noJob)

theorem inv_setRegs {s : State} (h : Inv s) (noJob : jobRuns s = false) (regs : HostRegs) : Inv (s.setRegs regs) :=
  inv_registers h noJob regs s.planeLen

theorem inv_validated {s : State} (h : Inv s) (noJob : jobRuns s = false) : Inv (validated s) :=
  inv_registers h noJob s.regs _

/-! ### The ends and the beginnings of a command -/

theorem inv_raiseError {s : State} {e : ErrCode} (h : Inv s) (busy : s.status.busy = true) (error : e ≠ .noError) :
    Inv (raiseError e s) :=
  .of_parts h.memory (statusInv_raised h.statusInv busy error) (by rintro ⟨⟩) (by rintro ⟨⟩)

theorem inv_finish {s : State} (h : Inv s) (busy : s.status.busy = true) : Inv (finish s) :=
  .of_parts h.memory (statusInv_finished h.statusInv busy) (by rintro ⟨⟩) (by rintro ⟨⟩)

theorem inv_accept {s : State} {cmd : BitVec 4} (h : Inv s) (command : cmd ≠ 0) : Inv (accept cmd s) :=
  .of_parts h.memory (statusInv_accepted s.status) (fun _ => command) (by rintro ⟨⟩)

theorem inv_markIgnored {s : State} (h : Inv s) : Inv (markIgnored s) :=
  .of_parts h.memory (statusInv_ignored h.statusInv) h.execCommand fun job =>
    (h.job job).congr rfl rfl rfl rfl rfl rfl

/-! ### The moves of a decode -/

/-- The cursor and the counters may change as long as the cursor stays in range and the pixels written are among
those before it. -/
theorem inv_setCounters {s : State} (h : Inv s) (c : Counters)
    (moved : jobRuns s = true → CursorInRange (s.setCounters c) ∧
      c.pixelsWritten.toNat ≤ pixelsBefore (s.setCounters c)) : Inv (s.setCounters c) :=
  .of_parts h.memory h.statusInv h.execCommand fun job =>
    have inv := h.job job
    ⟨inv.command, inv.config, inv.planeLen, (moved job).1, (moved job).2, inv.scratch⟩

/-- Counting a byte moves no cursor and writes no pixel. -/
theorem inv_countByte {s : State} (h : Inv s) : Inv (countByte s) :=
  inv_setCounters h _ fun job => ⟨(h.job job).cursor, (h.job job).written⟩

theorem inv_afterSrcRead {s : State} (h : Inv s) (src : Source) : Inv (afterSrcRead src s) :=
  inv_countByte (inv_setSource h src)

/-- A step of a job goes on to another state of the job whose datapath registers fit. -/
theorem inv_goTo {s : State} (h : Inv s) (job : jobRuns s = true) {x : EngineState} {v : Scratch}
    (cmd : v.cmd = s.scratch.cmd) (runs : jobRuns (goTo x s) = true) (fits : ScratchFits (goTo x (s.setScratch v))) :
    Inv (goTo x (s.setScratch v)) :=
  have inv := h.job job
  have busy : s.status.busy = true := busy_of_job h job
  .of_parts h.memory (statusInv_goTo h.statusInv busy (by rintro rfl; cases runs))
    (by rintro rfl; cases runs)
    fun _ => ⟨cmd.trans inv.command, inv.config, inv.planeLen, inv.cursor, inv.written, fits⟩

/-- The bytes of a legal image are in the plane, so filling them keeps the invariant. -/
theorem inv_zeroFill_validated {s : State} (h : Inv s) (noJob : jobRuns s = false)
    (legal : LegalConfig s.regs s.capacity) : Inv (zeroFill (validated s)) := by
  obtain ⟨_, _, _, _, _, _, fits⟩ := id legal
  refine inv_setPlane (inv_validated h noJob) (wf_fill _ 0 _ h.planeWf) (below_fill 0 ?_ h.planeBelow)
  exact (toNat_ofNat_imageBytes legal).trans_le fits

/-- DECODE starts a job that is in order, at the first pixel (42_rle_decoder.md R141). -/
theorem inv_afterDecode {s : State} (h : Inv s) (state : s.status.state = .exec) (cmd : s.scratch.cmd = 2)
    (legal : LegalDecodeConfig s.regs s.capacity) : Inv (afterDecode s) := by
  have busy : s.status.busy = true := h.busyState.mpr (by rw [state]; decide)
  have bottom : (afterDecode s).counters.curY.toInt = (s.imageHeight : Int) - 1 := toInt_height_sub_one legal.1
  have cursor : CursorInRange (afterDecode s) := by
    refine ⟨Nat.zero_le _, ?_, ?_⟩ <;> rw [bottom]
    · omega
    · exact Int.sub_one_lt_iff.mpr le_rfl
  exact .of_parts (inv_zeroFill_validated h (not_job_of_exec state) legal.1).memory
    (statusInv_goTo h.statusInv busy (by decide)) (by rintro ⟨⟩)
    fun _ => ⟨cmd, legal, toNat_ofNat_imageBytes legal.1, cursor, Nat.zero_le _, trivial⟩

end Sys2Proof.Machine
end

section
/-! 42_rle_decoder.md R143 to R147, R151, R172 and R173: the steps of a decode, said once, and what each of them does
to the invariant and to the order of writing. -/

namespace Sys2Proof.Machine

/-! ### The steps of a decode -/

/-- The state after a RUN step inside the image (R151), as `afterRunStep_eq` gives it. -/
def runPixel (s : State) : State :=
  afterPixelStep (stepIndex s) { s.scratch with i := s.scratch.i + 1, left := s.scratch.left - 1 }
    { s.status with state := if s.scratch.left = 1 then .hdrA else .run } s

/-- The state after an ABS_EMIT step inside the image (R173), as `afterAbsEmitStep_eq` gives it. -/
def absEmitPixel (s : State) : State :=
  afterPixelStep (stepIndex s) { s.scratch with i := s.scratch.i + 1 }
    { s.status with state := if s.scratch.i + 1 = s.scratch.count then .hdrA else .absEmit } s

/-- What one engine step of a running job can do (R143): raise an error, take a byte, or write a pixel. -/
inductive JobStep (s : State) : State → Prop
  | error {e : ErrCode} (code : e = .truncation ∨ e = .bounds) : JobStep s (raiseError e s)
  | hdrA {r : Byte} {src : Source} (state : s.status.state = .hdrA) (byte : s.source.next = some (r, src)) :
      JobStep s (latchA r (afterSrcRead src s))
  | hdrB {r : Byte} {src : Source} (state : s.status.state = .hdrB) (byte : s.source.next = some (r, src)) :
      JobStep s (dispatchHeader r (latchB r (afterSrcRead src s)))
  | deltaX {r : Byte} {src : Source} (state : s.status.state = .deltaX) (byte : s.source.next = some (r, src)) :
      JobStep s (latchDx r (afterSrcRead src s))
  | deltaY {r : Byte} {src : Source} (state : s.status.state = .deltaY) (byte : s.source.next = some (r, src)) :
      JobStep s (moveByDelta r (afterSrcRead src s))
  | absRead {r : Byte} {src : Source} (state : s.status.state = .absRead) (byte : s.source.next = some (r, src))
      (backed : s.scratch.fill.toNat < 256) : JobStep s (afterLiteral r (afterSrcRead src s))
  | run (state : s.status.state = .run)
      (inside : outsideImage s s.counters.curX.toNat s.counters.curY.toInt = false)
      (backed : pixelByte s.depth s.imageWidth s.counters.curX.toNat s.counters.curY.toInt.toNat < s.capacity.toNat) :
      JobStep s (runPixel s)
  | absEmit (state : s.status.state = .absEmit)
      (inside : outsideImage s s.counters.curX.toNat s.counters.curY.toInt = false)
      (backed : pixelByte s.depth s.imageWidth s.counters.curX.toNat s.counters.curY.toInt.toNat < s.capacity.toNat) :
      JobStep s (absEmitPixel s)

/-- A read of the source by a running job is one of its steps if what follows the byte is. -/
theorem jobStep_srcRead {s t : State} {k : Byte → State → Result} (h : srcRead s k = .next t)
    (hk : ∀ r src, s.source.next = some (r, src) → k r (afterSrcRead src s) = .next t → JobStep s t) : JobStep s t := by
  rcases srcRead_cases s k with ⟨r, src, byte, e⟩ | ⟨_, e⟩ | ⟨_, e⟩
  · exact hk r src byte (e.symm.trans h)
  · cases e.symm.trans h
    exact .error (.inl rfl)
  · cases e.symm.trans h

/-- Every step of a running job is one of these. -/
theorem jobStep_of_engineStep {s t : State} (job : jobRuns s = true) (h : engineStep s = .next t) : JobStep s t := by
  cases state : s.status.state with
  | idle | exec => simp [jobRuns, state] at job
  | hdrA =>
    rw [engineStep_hdrA state] at h
    exact jobStep_srcRead h fun r src byte e => by cases e; exact .hdrA state byte
  | hdrB =>
    rw [engineStep_hdrB state] at h
    exact jobStep_srcRead h fun r src byte e => by cases e; exact .hdrB state byte
  | deltaX =>
    rw [engineStep_deltaX state] at h
    exact jobStep_srcRead h fun r src byte e => by cases e; exact .deltaX state byte
  | deltaY =>
    rw [engineStep_deltaY state] at h
    exact jobStep_srcRead h fun r src byte e => by cases e; exact .deltaY state byte
  | absRead =>
    rw [engineStep_absRead state] at h
    refine jobStep_srcRead h fun r src byte e => ?_
    rcases latchLiteral_cases r (afterSrcRead src s) with ⟨backed, e'⟩ | ⟨_, e'⟩
    · cases e'.symm.trans e
      exact .absRead state byte backed
    · cases e'.symm.trans e
  | run =>
    rw [engineStep_run state] at h
    rcases runStep_cases s with ⟨_, e⟩ | ⟨_, _, _, e⟩ | ⟨inside, backed, e⟩ <;> cases e.symm.trans h
    · exact .error (.inr rfl)
    · rw [afterRunStep_eq state]
      exact .run state inside backed
  | absEmit =>
    rw [engineStep_absEmit state] at h
    rcases absEmitStep_cases s with ⟨_, e⟩ | ⟨_, _, _, e⟩ | ⟨inside, backed, e⟩ <;> cases e.symm.trans h
    · exact .error (.inr rfl)
    · rw [afterAbsEmitStep_eq state]
      exact .absEmit state inside backed

/-! ### The order of writing -/

/-- PIXELS_WRITTEN stays below W*H as long as it stays below the pixels before the cursor. -/
theorem pixelsBefore_le_image {s : State} (cursor : CursorInRange s) :
    pixelsBefore s ≤ s.imageWidth * s.imageHeight := by
  obtain ⟨hx, _, hy⟩ := cursor
  exact pixelOrder_le_image hx hy

/-- Settles O57: the pixels written lie before the cursor, and all pixels before it in the image. -/
theorem pixelsWrittenNeverExceedsTheImage : Obligations.PixelsWrittenNeverExceedsTheImage := by
  unfold Obligations.PixelsWrittenNeverExceedsTheImage
  intro s inv job
  exact (inv.job job).written.trans (pixelsBefore_le_image (inv.job job).cursor)

/-- A move that writes no pixel: no further left in its row, or further down, and in the cursor's range. -/
structure MovesOn (s : State) (c : Counters) : Prop where
  written : c.pixelsWritten = s.counters.pixelsWritten
  right : c.curX.toNat ≤ s.imageWidth
  bottom : -1 ≤ c.curY.toInt
  later : c.curY.toInt < 0 ∨ c.curY.toInt < s.counters.curY.toInt ∨
    c.curY.toInt = s.counters.curY.toInt ∧ s.counters.curX.toNat ≤ c.curX.toNat

theorem MovesOn.pixelsBefore_le {s : State} {c : Counters} (h : MovesOn s c) (cursor : CursorInRange s) :
    pixelsBefore s ≤ pixelsBefore (s.setCounters c) := by
  obtain ⟨hx, _, hy⟩ := cursor
  exact pixelOrder_mono hx hy h.later

theorem MovesOn.inv {s : State} {c : Counters} (h : Inv s) (job : jobRuns s = true) (moves : MovesOn s c) :
    Inv (s.setCounters c) := by
  obtain ⟨_, _, _, cursor, written, _⟩ := h.job job
  have order := moves.pixelsBefore_le cursor
  obtain ⟨same, right, bottom, later⟩ := moves
  refine inv_setCounters h c fun _ => ⟨⟨right, bottom, ?_⟩, ?_⟩
  · obtain ⟨_, _, top⟩ := cursor
    show c.curY.toInt < s.imageHeight
    omega
  · rw [same]
    exact written.trans order

/-- DELTA moves right and down (R154, R156). -/
theorem movesOn_delta {s : State} (dx dy : Nat) (cursor : CursorInRange s) :
    MovesOn s ((s.counters.advX s.imageWidth dx).decY dy) := by
  obtain ⟨hx, bottom, _⟩ := cursor
  have x : ((s.counters.advX s.imageWidth dx).decY dy).curX.toNat = min (s.counters.curX.toNat + dx) s.imageWidth :=
    toNat_curX_advX s.imageWidth dx s.counters (imageWidth_lt s)
  have y : ((s.counters.advX s.imageWidth dx).decY dy).curY.toInt = max (s.counters.curY.toInt - dy) (-1) :=
    toInt_curY_decY dy (s.counters.advX s.imageWidth dx)
  exact ⟨rfl, by omega, by omega, by omega⟩

/-- The end of a line goes to the start of the next row, or stays below the image (R152). -/
theorem movesOn_lineEnd (s : State) : MovesOn s (Counters.decY 1 { s.counters with curX := 0 }) := by
  have y := toInt_curY_decY 1 { s.counters with curX := 0 }
  refine ⟨rfl, Nat.zero_le _, ?_, ?_⟩ <;> rw [y]
  · exact le_max_right _ _
  · show max (s.counters.curY.toInt - 1) (-1) < 0 ∨ max (s.counters.curY.toInt - 1) (-1) < s.counters.curY.toInt ∨ _
    omega

/-- A pixel step moves the cursor past its pixel by exactly one. -/
theorem pixelsBefore_afterPixelStep {s : State} (v : Byte) (scratch : Scratch) (status : Status)
    (inside : outsideImage s s.counters.curX.toNat s.counters.curY.toInt = false) :
    pixelsBefore (afterPixelStep v scratch status s) = pixelsBefore s + 1 := by
  obtain ⟨⟨_, hx⟩, hy, _⟩ := (outsideImage_false_iff s _ _).mp inside
  have width := imageWidth_lt s
  have x : (s.counters.curX + 1).toNat = s.counters.curX.toNat + 1 := by bv_omega
  rw [afterPixelStep_frame v scratch status (by omega)]
  exact (congrArg (pixelOrder s.imageWidth s.imageHeight · s.counters.curY.toInt) x).trans (pixelOrder_succ hy)

/-! ### The invariant under the steps of a decode -/

theorem inv_afterPixelStep {s : State} (h : Inv s) (job : jobRuns s = true) (v : Byte) {scratch : Scratch}
    {x : EngineState} (inside : outsideImage s s.counters.curX.toNat s.counters.curY.toInt = false)
    (backed : pixelByte s.depth s.imageWidth s.counters.curX.toNat s.counters.curY.toInt.toNat < s.capacity.toNat)
    (cmd : scratch.cmd = s.scratch.cmd) (runs : jobRuns (goTo x s) = true)
    (fits : ScratchFits (goTo x (s.setScratch scratch))) :
    Inv (afterPixelStep v scratch { s.status with state := x } s) := by
  obtain ⟨_, _, _, _, written, _⟩ := h.job job
  have order := pixelsBefore_afterPixelStep v scratch { s.status with state := x } inside
  obtain ⟨⟨_, hx⟩, hy, hy'⟩ := (outsideImage_false_iff s _ _).mp inside
  have width := imageWidth_lt s
  rw [afterPixelStep_frame v _ _ (by omega)] at order ⊢
  have painted : Inv (s.setPlane (afterPutPixel v s).plane) := inv_planeWrite h _ backed
  have counted : Inv ((s.setPlane (afterPutPixel v s).plane).setCounters
      { s.counters with curX := s.counters.curX + 1, pixelsWritten := s.counters.pixelsWritten + 1 }) := by
    refine inv_setCounters painted _ fun _ => ⟨⟨?_, ?_, hy'⟩, ?_⟩
    · show (s.counters.curX + 1).toNat ≤ s.imageWidth
      bv_omega
    · exact Int.le_trans (by decide) hy
    · refine Nat.le_trans ?_ (Nat.le_of_eq order.symm)
      show (s.counters.pixelsWritten + 1).toNat ≤ _
      bv_omega
  exact inv_goTo counted job cmd runs fits

/-- N(b, d) literal bytes at a legal depth: at least one, and no more than LIT_BUF has. -/
theorem paddedLength_bounds {r : HostRegs} {capacity : Word} (h : LegalConfig r capacity) {b : Byte}
    (hb : 3 ≤ b.toNat) :
    0 < paddedLength b.toNat r.depth.toNat ∧ paddedLength b.toNat r.depth.toNat ≤ 256 := by
  obtain ⟨depth, _⟩ := h
  have least : paddedLength 3 1 ≤ paddedLength b.toNat r.depth.toNat := paddedLength_mono hb (by omega)
  have greatest : paddedLength b.toNat r.depth.toNat ≤ paddedLength 255 8 :=
    paddedLength_mono (by omega) (by omega)
  exact ⟨Nat.lt_of_lt_of_le (by decide) least, greatest.trans (by decide)⟩

theorem inv_latchB {s : State} (h : Inv s) (state : s.status.state = .hdrB) (r : Byte) : Inv (latchB r s) := by
  have job : jobRuns s = true := by rw [jobRuns, state]
  refine inv_goTo (x := s.status.state) (v := { s.scratch with b := r }) h job rfl job ?_
  rw [state]
  trivial

/-- Each record kind enters its state with the datapath registers that the state needs (R147). -/
theorem inv_dispatchHeader {s : State} (h : Inv s) (job : jobRuns s = true) (r : Byte) : Inv (dispatchHeader r s) := by
  obtain ⟨_, ⟨legal, _⟩, _⟩ := h.job job
  by_cases run : s.scratch.a = 0
  · rw [dispatchHeader_escape r run]
    split_ifs with h0 h1 h2
    · exact inv_goTo ((movesOn_lineEnd s).inv h job) job rfl rfl trivial
    · exact inv_finish h (busy_of_job h job)
    · exact inv_goTo h job rfl rfl trivial
    · have count := three_le_of_ne_selector h0 h1 h2
      obtain ⟨positive, small⟩ := paddedLength_bounds legal count
      have need : (BitVec.ofNat 9 (paddedLength r.toNat s.depth)).toNat = paddedLength r.toNat s.depth := by
        rw [BitVec.toNat_ofNat]
        exact Nat.mod_eq_of_lt (Nat.lt_of_le_of_lt small (by decide))
      exact inv_goTo h job rfl rfl ⟨count, need, Nat.lt_of_lt_of_eq positive need.symm⟩
  · have pixels : 1 ≤ s.scratch.a.toNat := by bv_omega
    rw [dispatchHeader_encodedRun r run]
    exact inv_goTo h job rfl rfl ⟨run, pixels, Nat.zero_add _⟩

/-- The literal byte that fills the buffer leads to ABS_EMIT, any other leaves room for one more (R172). -/
theorem inv_afterLiteral {s : State} (h : Inv s) (state : s.status.state = .absRead) (r : Byte)
    (backed : s.scratch.fill.toNat < 256) : Inv (afterLiteral r s) := by
  have job : jobRuns s = true := by rw [jobRuns, state]
  have fits := (h.job job).scratch
  rw [ScratchFits, state] at fits
  obtain ⟨count, need, room⟩ := fits
  have stored := inv_litWrite h r backed
  unfold afterLiteral
  split
  next last => exact inv_goTo stored job rfl rfl ⟨count, (Nat.succ_pos 2).trans_le count⟩
  next more =>
    have more' : (s.scratch.fill + 1).toNat < s.scratch.need.toNat := by bv_omega
    refine inv_goTo (x := s.status.state) (v := { s.scratch with fill := s.scratch.fill + 1 }) stored job rfl job ?_
    rw [state]
    exact ⟨count, need, more'⟩

theorem inv_runPixel {s : State} (h : Inv s) (state : s.status.state = .run)
    (inside : outsideImage s s.counters.curX.toNat s.counters.curY.toInt = false)
    (backed : pixelByte s.depth s.imageWidth s.counters.curX.toNat s.counters.curY.toInt.toNat < s.capacity.toNat) :
    Inv (runPixel s) := by
  have job : jobRuns s = true := by rw [jobRuns, state]
  have fits := (h.job job).scratch
  rw [ScratchFits, state] at fits
  obtain ⟨a, left, sum⟩ := fits
  refine inv_afterPixelStep h job _ inside backed rfl ?_ ?_
  · split <;> rfl
  · split
    next => trivial
    next more =>
      have left' : 1 ≤ (s.scratch.left - 1).toNat := by bv_omega
      have sum' : (s.scratch.i + 1).toNat + (s.scratch.left - 1).toNat = s.scratch.a.toNat := by bv_omega
      exact ⟨a, left', sum'⟩

theorem inv_absEmitPixel {s : State} (h : Inv s) (state : s.status.state = .absEmit)
    (inside : outsideImage s s.counters.curX.toNat s.counters.curY.toInt = false)
    (backed : pixelByte s.depth s.imageWidth s.counters.curX.toNat s.counters.curY.toInt.toNat < s.capacity.toNat) :
    Inv (absEmitPixel s) := by
  have job : jobRuns s = true := by rw [jobRuns, state]
  have fits := (h.job job).scratch
  rw [ScratchFits, state] at fits
  obtain ⟨count, room⟩ := fits
  refine inv_afterPixelStep h job _ inside backed rfl ?_ ?_
  · split <;> rfl
  · split
    next => trivial
    next more =>
      have room' : (s.scratch.i + 1).toNat < s.scratch.count.toNat := by bv_omega
      exact ⟨count, room'⟩

/-- Every step of a running job keeps the invariant. -/
theorem inv_jobStep {s t : State} (h : Inv s) (job : jobRuns s = true) (step : JobStep s t) : Inv t := by
  cases step with
  | error code => exact inv_raiseError h (busy_of_job h job) (by rcases code with rfl | rfl <;> decide)
  | @hdrA r src state byte => exact inv_goTo (inv_afterSrcRead h src) job rfl rfl trivial
  | @hdrB r src state byte => exact inv_dispatchHeader (inv_latchB (inv_afterSrcRead h src) state r) job r
  | @deltaX r src state byte => exact inv_goTo (inv_afterSrcRead h src) job rfl rfl trivial
  | @deltaY r src state byte =>
    have read := inv_afterSrcRead h src
    exact inv_goTo ((movesOn_delta _ _ (read.job job).cursor).inv read job) job rfl rfl trivial
  | @absRead r src state byte backed => exact inv_afterLiteral (inv_afterSrcRead h src) state r backed
  | run state inside backed => exact inv_runPixel h state inside backed
  | absEmit state inside backed => exact inv_absEmitPixel h state inside backed

end Sys2Proof.Machine
end

section
/-! 42_rle_decoder.md R184 and R185, 40_commands.md R106 and 20_memory.md R66: the order of writing, and where the
engine's single steps stop. -/

namespace Sys2Proof.Machine

/-! ### Which steps write a pixel -/

/-- A step that writes no pixel and does not move the cursor back. -/
structure WritesNoPixel (s t : State) : Prop where
  order : pixelsBefore s ≤ pixelsBefore t
  plane : ∀ k, t.planeRead k = s.planeRead k
  written : t.counters.pixelsWritten = s.counters.pixelsWritten

/-- In a state that writes a pixel, the pixel at the cursor, which the cursor then passes by exactly one. -/
structure WritesOnePixel (s t : State) : Prop where
  state : s.status.state = .run ∨ s.status.state = .absEmit
  inside : outsideImage s s.counters.curX.toNat s.counters.curY.toInt = false
  order : pixelsBefore t = pixelsBefore s + 1

/-- Of the five records only EOL moves the cursor in HDR_B, and it moves on. -/
theorem writesNoPixel_dispatchHeader (r : Byte) {s : State} (cursor : CursorInRange s) :
    WritesNoPixel s (dispatchHeader r s) := by
  obtain ⟨frame, _, written⟩ := dispatchHeader_frame r s
  refine ⟨?_, fun k => by rw [frame]; rfl, written⟩
  by_cases eol : s.scratch.a = 0 ∧ r = 0
  · obtain ⟨escape, rfl⟩ := eol
    rw [dispatchHeader_escape 0 escape, if_pos rfl]
    exact (movesOn_lineEnd s).pixelsBefore_le cursor
  · rw [frame, dispatchHeader_counters eol]
    exact le_rfl

theorem writesNoPixel_afterLiteral (r : Byte) (s : State) : WritesNoPixel s (afterLiteral r s) := by
  rw [afterLiteral_frame]
  exact ⟨le_rfl, fun _ => rfl, rfl⟩

/-- Only the steps of RUN and ABS_EMIT write a pixel (42_rle_decoder.md R184, R185). -/
theorem writes_of_jobStep {s t : State} (cursor : CursorInRange s) (step : JobStep s t) :
    WritesNoPixel s t ∨ WritesOnePixel s t := by
  cases step with
  | error code => exact .inl ⟨le_rfl, fun _ => rfl, rfl⟩
  | hdrA state byte => exact .inl ⟨le_rfl, fun _ => rfl, rfl⟩
  | @hdrB r src state byte =>
    obtain ⟨order, plane, written⟩ := writesNoPixel_dispatchHeader r (s := latchB r (afterSrcRead src s)) cursor
    exact .inl ⟨order, plane, written⟩
  | deltaX state byte => exact .inl ⟨le_rfl, fun _ => rfl, rfl⟩
  | @deltaY r src state byte =>
    exact .inl ⟨(movesOn_delta (s := afterSrcRead src s) _ _ cursor).pixelsBefore_le cursor, fun _ => rfl, rfl⟩
  | @absRead r src state byte backed =>
    obtain ⟨order, plane, written⟩ := writesNoPixel_afterLiteral r (afterSrcRead src s)
    exact .inl ⟨order, plane, written⟩
  | run state inside backed => exact .inr ⟨.inl state, inside, pixelsBefore_afterPixelStep _ _ _ inside⟩
  | absEmit state inside backed => exact .inr ⟨.inr state, inside, pixelsBefore_afterPixelStep _ _ _ inside⟩

/-- Settles O40: a step writes no pixel and moves on, or writes the cursor's own pixel and passes it. -/
theorem decodeWritesPixelsInOrderAndNoneTwice : Obligations.DecodeWritesPixelsInOrderAndNoneTwice := by
  unfold Obligations.DecodeWritesPixelsInOrderAndNoneTwice
  intro s t inv job step _
  have cursor := (inv.job job).cursor
  rcases writes_of_jobStep cursor (jobStep_of_engineStep job step) with quiet | ⟨state, inside, order⟩
  · refine ⟨quiet.order, ?_⟩
    rintro (⟨k, changed⟩ | counted)
    · exact absurd (quiet.plane k) changed
    · exact absurd quiet.written counted
  · obtain ⟨_, hy, hy'⟩ := (outsideImage_false_iff s _ _).mp inside
    exact ⟨by omega, fun _ => ⟨state, pixelOrder_row hy hy', order⟩⟩

/-! ### Where a running job has a step -/

/-- The engine waits for the source: a reading state, and neither a byte nor EOF is offered. -/
def WaitsForSource (s : State) : Prop :=
  s.sReady = true ∧ s.source = { bytes := [], rest := .nothing } ∧ engineStep s = .fault .awaitingSource

/-- A reading state has a step as soon as what follows its byte has one. -/
theorem progress_srcRead {s : State} {k : Byte → State → Result} (ready : s.sReady = true)
    (reads : engineStep s = srcRead s k) (hk : ∀ r src, ∃ t, k r (afterSrcRead src s) = .next t) :
    (∃ t, engineStep s = .next t) ∨ WaitsForSource s := by
  rcases srcRead_cases s k with ⟨r, src, _, e⟩ | ⟨_, e⟩ | ⟨nothing, e⟩
  · obtain ⟨t, next⟩ := hk r src
    exact .inl ⟨t, reads.trans (e.trans next)⟩
  · exact .inl ⟨_, reads.trans e⟩
  · exact .inr ⟨ready, nothing, reads.trans e⟩

/-- A pixel of a legal image has its byte in the plane. -/
theorem pixel_backed {s : State} (legal : LegalConfig s.regs s.capacity)
    (inside : outsideImage s s.counters.curX.toNat s.counters.curY.toInt = false) :
    pixelByte s.depth s.imageWidth s.counters.curX.toNat s.counters.curY.toInt.toNat < s.capacity.toNat := by
  obtain ⟨⟨_, hx⟩, hy, hy'⟩ := (outsideImage_false_iff s _ _).mp inside
  exact pixelByte_lt_capacity legal (by omega) (by omega)

theorem progress_pixel {s : State} (legal : LegalConfig s.regs s.capacity)
    (state : s.status.state = .run ∨ s.status.state = .absEmit) : ∃ t, engineStep s = .next t := by
  cases inside : outsideImage s s.counters.curX.toNat s.counters.curY.toInt with
  | true => exact ⟨_, engineStep_pixel_outside state inside⟩
  | false =>
    obtain ⟨_, _, step, _⟩ := engineStep_pixel_inside state inside (pixel_backed legal inside)
    exact ⟨_, step⟩

/-- Under the invariant a running job has a step, or waits for the source. -/
theorem progress_job {s : State} (h : Inv s) (job : jobRuns s = true) :
    (∃ t, engineStep s = .next t) ∨ WaitsForSource s := by
  obtain ⟨_, ⟨legal, _⟩, _, _, _, fits⟩ := h.job job
  cases state : s.status.state with
  | idle | exec => simp [jobRuns, state] at job
  | hdrA => exact progress_srcRead (by rw [State.sReady, state]) (engineStep_hdrA state) fun _ _ => ⟨_, rfl⟩
  | hdrB => exact progress_srcRead (by rw [State.sReady, state]) (engineStep_hdrB state) fun _ _ => ⟨_, rfl⟩
  | deltaX => exact progress_srcRead (by rw [State.sReady, state]) (engineStep_deltaX state) fun _ _ => ⟨_, rfl⟩
  | deltaY => exact progress_srcRead (by rw [State.sReady, state]) (engineStep_deltaY state) fun _ _ => ⟨_, rfl⟩
  | absRead =>
    rw [ScratchFits, state] at fits
    obtain ⟨count, need, room⟩ := fits
    have small : s.scratch.need.toNat ≤ 256 := need.trans_le (paddedLength_bounds legal count).2
    exact progress_srcRead (by rw [State.sReady, state]) (engineStep_absRead state) fun r src =>
      ⟨_, latchLiteral_of_lt r (s := afterSrcRead src s) (room.trans_le small)⟩
  | run => exact .inl (progress_pixel legal (.inl state))
  | absEmit => exact .inl (progress_pixel legal (.inr state))

/-! ### The commands -/

/-- The commands that EXEC can meet (40_commands.md R106). -/
theorem decodeCommand_cases (cmd : BitVec 4) (h : cmd ≠ 0) :
    decodeCommand cmd = .clear ∨ (cmd = 2 ∧ decodeCommand cmd = .decode) ∨ decodeCommand cmd = .getIndex ∨
    decodeCommand cmd = .setIndex ∨
    decodeCommand cmd ∈ [Instr.reserved5, .reserved6, .reserved7, .reserved8, .reserved9, .reserved10, .reserved11,
      .reserved12, .reserved13, .reserved14, .reserved15] := by
  revert cmd
  decide

section
variable {s : State} (h : Inv s) (state : s.status.state = .exec)
include h state

theorem busy_of_exec : s.status.busy = true := h.busyState.mpr (by rw [state]; decide)

theorem inv_validation_error : Inv (raiseError .validation s) := inv_raiseError h (busy_of_exec h state) (by decide)

theorem inv_error_after_validation {e : ErrCode} (error : e ≠ .noError) : Inv (raiseError e (validated s)) := by
  have busy := busy_of_exec h state
  exact inv_raiseError (inv_validated h (not_job_of_exec state)) busy error

theorem inv_exec_clear : ∃ t, exec .clear s = .next t ∧ Inv t := by
  rcases exec_clear_cases s with e | ⟨legal, e⟩
  · exact ⟨_, e, inv_validation_error h state⟩
  · have filled := inv_zeroFill_validated h (not_job_of_exec state) legal
    have busy := busy_of_exec h state
    exact ⟨_, e, inv_finish filled busy⟩

theorem inv_exec_decode (cmd : s.scratch.cmd = 2) : ∃ t, exec .decode s = .next t ∧ Inv t := by
  rcases exec_decode_cases s with e | e | ⟨legal, e⟩
  · exact ⟨_, e, inv_validation_error h state⟩
  · exact ⟨_, e, inv_error_after_validation h state (by decide)⟩
  · exact ⟨_, e, inv_afterDecode h state cmd legal⟩

theorem inv_exec_getIndex : ∃ t, exec .getIndex s = .next t ∧ Inv t := by
  rcases exec_getIndex_cases s with e | e | e
  · exact ⟨_, e, inv_validation_error h state⟩
  · exact ⟨_, e, inv_error_after_validation h state (by decide)⟩
  · have checked := inv_validated h (not_job_of_exec state)
    have busy := busy_of_exec h state
    exact ⟨_, e, inv_finish (inv_setRegs checked (not_job_of_exec state) _) busy⟩

theorem inv_exec_setIndex : ∃ t, exec .setIndex s = .next t ∧ Inv t := by
  rcases exec_setIndex_cases s with e | e | ⟨legal, hx, hy, e⟩
  · exact ⟨_, e, inv_validation_error h state⟩
  · exact ⟨_, e, inv_error_after_validation h state (by decide)⟩
  · have checked := inv_validated h (not_job_of_exec state)
    have backed := pixelByte_lt_capacity legal hx hy
    rw [← toInt_pixY legal hy] at backed
    have busy := busy_of_exec h state
    exact ⟨_, e, inv_finish (inv_planeWrite checked _ backed) busy⟩

/-- Every command that EXEC can meet has its step, which keeps the invariant. -/
theorem inv_execStep : ∃ t, engineStep s = .next t ∧ Inv t := by
  have command := h.execCommand state
  rw [engineStep_exec state command]
  rcases decodeCommand_cases _ command with e | ⟨cmd, e⟩ | e | e | reserved
  · rw [e]; exact inv_exec_clear h state
  · rw [e]; exact inv_exec_decode h state cmd
  · rw [e]; exact inv_exec_getIndex h state
  · rw [e]; exact inv_exec_setIndex h state
  · rw [exec_reserved _ s reserved]
    exact ⟨_, rfl, inv_raiseError h (busy_of_exec h state) (by decide)⟩

end

/-! ### Every single step of the engine -/

/-- Under the invariant the engine has a step, or it waits: for the host in IDLE, or for the source. -/
theorem progress_engineStep {s : State} (h : Inv s) :
    (∃ t, engineStep s = .next t) ∨ (s.status.state = .idle ∧ engineStep s = .fault .awaitingHost) ∨
    WaitsForSource s := by
  cases job : jobRuns s with
  | true => exact (progress_job h job).imp_right .inr
  | false =>
    rcases (jobRuns_eq_false_iff s).mp job with idle | state
    · exact .inr (.inl ⟨idle, by simp only [engineStep, idle]⟩)
    · obtain ⟨t, step, _⟩ := inv_execStep h state
      exact .inl ⟨t, step⟩

theorem inv_engineStep {s t : State} (h : Inv s) (step : engineStep s = .next t) : Inv t := by
  cases job : jobRuns s with
  | true => exact inv_jobStep h job (jobStep_of_engineStep job step)
  | false =>
    rcases (jobRuns_eq_false_iff s).mp job with idle | state
    · simp [engineStep, idle] at step
    · obtain ⟨u, next, inv⟩ := inv_execStep h state
      cases next.symm.trans step
      exact inv

theorem inv_engineSteps {n : Nat} {s t : State} (h : Inv s) (steps : engineSteps n s = .next t) : Inv t := by
  induction n generalizing s with
  | zero => cases steps; exact h
  | succ n ih =>
    obtain ⟨u, first, others⟩ := andThen_next_cases steps
    exact ih (inv_engineStep h first) others

end Sys2Proof.Machine
end

section
/-! 42_rle_decoder.md section 4 and R143: a record is the composition of the engine's single steps on its bytes; and
with it the invariant under every step of the machine, and where the machine stops. -/

namespace Sys2Proof.Machine

/-! ### Several steps -/

theorem engineSteps_one (s : State) : engineSteps 1 s = engineStep s := by
  rw [engineSteps]
  cases engineStep s <;> rfl

theorem engineSteps_succ_of_next {s t : State} (h : engineStep s = .next t) (n : Nat) :
    engineSteps (n + 1) s = engineSteps n t := by
  rw [engineSteps, h, andThen_next]

theorem engineSteps_add_of_next {m : Nat} {s t : State} (h : engineSteps m s = .next t) (n : Nat) :
    engineSteps (m + n) s = engineSteps n t := by
  induction m generalizing s with
  | zero =>
    cases h
    rw [Nat.zero_add]
  | succ m ih =>
    obtain ⟨u, first, others⟩ := andThen_next_cases h
    rw [Nat.succ_add, engineSteps_succ_of_next first, ih others]

/-- The state whose source has given all its bytes up to `rest`. -/
def dropTo (rest : List Byte) (s : State) : State := s.setSource { s.source with bytes := rest }

theorem dropTo_self {s : State} {rest : List Byte} (h : s.source.bytes = rest) : dropTo rest s = s := by
  subst h
  rfl

theorem source_next_of_bytes {s : State} {r : Byte} {rest : List Byte} (h : s.source.bytes = r :: rest) :
    s.source.next = some (r, { s.source with bytes := rest }) := by
  rw [Source.next, h]

/-! ### The header -/

/-- HDR_A and HDR_B on the two bytes of a header. -/
theorem engineSteps_header {s : State} {a b : Byte} {rest : List Byte} (state : s.status.state = .hdrA)
    (bytes : s.source.bytes = a :: b :: rest) :
    engineSteps 2 s = .next (dispatchHeader b (readHeader a b (dropTo rest s))) := by
  have first : engineStep s = .next (latchA a (afterSrcRead { s.source with bytes := b :: rest } s)) := by
    rw [engineStep_hdrA state, srcRead_of_byte (source_next_of_bytes bytes)]
  rw [engineSteps_succ_of_next first, engineSteps_one]
  exact engineStep_hdrB_of_byte rfl rfl

/-! ### Literal bytes -/

/-- What the bytes of `literal`, read one by one in ABS_READ, leave: LIT_BUF from S.FILL on, the count of bytes, and
ABS_EMIT once S.NEED bytes are there (42_rle_decoder.md R172). -/
structure LiteralsRead (literal : List Byte) (s t : State) : Prop where
  frame : t = { s with
    litBuf := t.litBuf, scratch := t.scratch, status := t.status
    counters := { s.counters with
      bytesConsumed := s.counters.bytesConsumed + BitVec.ofNat 32 literal.length } }
  litRead : ∀ k, t.litRead k =
    if s.scratch.fill.toNat ≤ k then literal.getD (k - s.scratch.fill.toNat) (s.litRead k) else s.litRead k
  more : s.scratch.fill.toNat + literal.length < s.scratch.need.toNat →
    t.scratch = { s.scratch with fill := s.scratch.fill + BitVec.ofNat 9 literal.length } ∧ t.status = s.status
  last : s.scratch.fill.toNat + literal.length = s.scratch.need.toNat → literal ≠ [] →
    t.scratch = { s.scratch with fill := s.scratch.need, i := 0 } ∧
    t.status = { s.status with state := .absEmit }

theorem literalsRead_nil (s : State) : LiteralsRead [] s s where
  frame := by simp
  litRead := by simp
  more := by simp
  last := by simp

/-- The last literal byte of the buffer. -/
theorem literalsRead_last {r : Byte} {s : State} (last : s.scratch.fill.toNat + 1 = s.scratch.need.toNat) :
    LiteralsRead [r] s (afterLiteral r (countByte s)) where
  frame := by rw [afterLiteral_frame]; rfl
  litRead k := by
    rw [litRead_afterLiteral]
    show (if k = s.scratch.fill.toNat then r else s.litRead k) = _
    rcases Nat.lt_trichotomy k s.scratch.fill.toNat with below | rfl | above
    · rw [if_neg (by omega), if_neg (by omega)]
    · simp
    · obtain ⟨j, hj⟩ : ∃ j, k - s.scratch.fill.toNat = j + 1 := ⟨k - s.scratch.fill.toNat - 1, by omega⟩
      rw [if_neg (by omega), if_pos (by omega), hj]
      rfl
  more room := by simp at room; omega
  last _ _ := afterLiteral_last r (s := countByte s) (show s.scratch.fill + 1 = s.scratch.need by bv_omega)

/-- A counter that counts one and then `n` more. -/
theorem add_one_add_ofNat {w : Nat} (x : BitVec w) (n : Nat) :
    x + 1#w + BitVec.ofNat w n = x + BitVec.ofNat w (n + 1) := by
  rw [BitVec.ofNat_add, BitVec.add_assoc, BitVec.add_comm 1#w]

/-- After a literal byte that is not the last one, the rest is read with one byte more in the buffer. -/
theorem literalsRead_cons {r : Byte} {rs : List Byte} {s t : State}
    (room : s.scratch.fill.toNat + 1 < s.scratch.need.toNat)
    (h : LiteralsRead rs (afterLiteral r (countByte s)) t) : LiteralsRead (r :: rs) s t := by
  obtain ⟨scratch, status⟩ :=
    afterLiteral_more r (s := countByte s) (show s.scratch.fill + 1 ≠ s.scratch.need by bv_omega)
  have fill : (s.scratch.fill + 1).toNat = s.scratch.fill.toNat + 1 := by bv_omega
  obtain ⟨frame, litRead, more, last⟩ := h
  simp only [scratch, status, countByte_scratch, countByte_status, fill] at litRead more last
  refine ⟨?_, fun k => ?_, fun more' => ?_, fun last' _ => ?_⟩
  · rw [List.length_cons, ← add_one_add_ofNat]
    rw [afterLiteral_frame] at frame
    exact frame
  · rw [litRead k, litRead_afterLiteral]
    show (if _ ≤ k then rs.getD _ (if k = s.scratch.fill.toNat then r else s.litRead k) else
      if k = s.scratch.fill.toNat then r else s.litRead k) = _
    rcases Nat.lt_trichotomy k s.scratch.fill.toNat with below | rfl | above
    · rw [if_neg (by omega), if_neg (by omega), if_neg (by omega)]
    · simp
    · rw [if_pos (by omega), if_neg (by omega), if_pos (by omega),
        show k - s.scratch.fill.toNat = k - (s.scratch.fill.toNat + 1) + 1 by omega, List.getD_cons_succ]
  · obtain ⟨scratch', status'⟩ := more (by rw [List.length_cons] at more'; omega)
    refine ⟨?_, status'⟩
    rw [scratch', List.length_cons, ← add_one_add_ofNat]
    rfl
  · rw [List.length_cons] at last'
    exact last (by omega) (List.ne_nil_of_length_pos (by omega))

/-- ABS_READ reads every byte for which LIT_BUF has room. -/
theorem readLiterals_literalsRead {literal : List Byte} {s : State}
    (fits : s.scratch.fill.toNat + literal.length ≤ s.scratch.need.toNat) (small : s.scratch.need.toNat ≤ 256) :
    ∃ t, readLiterals literal s = .next t ∧ LiteralsRead literal s t := by
  induction literal generalizing s with
  | nil => exact ⟨s, rfl, literalsRead_nil s⟩
  | cons r rs ih =>
    rw [List.length_cons] at fits
    have stored : latchLiteral r (countByte s) = .next (afterLiteral r (countByte s)) :=
      latchLiteral_of_lt r (show s.scratch.fill.toNat < 256 by omega)
    rw [readLiterals, stored, andThen_next]
    by_cases last : s.scratch.fill.toNat + 1 = s.scratch.need.toNat
    · have none : rs = [] := List.eq_nil_of_length_eq_zero (by omega)
      subst none
      exact ⟨_, rfl, literalsRead_last last⟩
    · have room : s.scratch.fill.toNat + 1 < s.scratch.need.toNat := by omega
      obtain ⟨scratch, _⟩ :=
        afterLiteral_more r (s := countByte s) (show s.scratch.fill + 1 ≠ s.scratch.need by bv_omega)
      have fill : (afterLiteral r (countByte s)).scratch.fill.toNat = s.scratch.fill.toNat + 1 := by
        rw [scratch]
        show (s.scratch.fill + 1).toNat = _
        bv_omega
      have need : (afterLiteral r (countByte s)).scratch.need = s.scratch.need := by rw [scratch]; rfl
      obtain ⟨t, read, result⟩ := ih (s := afterLiteral r (countByte s)) (by rw [fill, need]; omega)
        (by rw [need]; exact small)
      exact ⟨t, read, literalsRead_cons room result⟩

theorem afterLiteral_dropTo (r : Byte) (rest : List Byte) (s : State) :
    afterLiteral r (dropTo rest s) = dropTo rest (afterLiteral r s) := by
  unfold afterLiteral
  by_cases last : s.scratch.fill + 1 = s.scratch.need
  · rw [if_pos last, if_pos (show (dropTo rest s).scratch.fill + 1 = (dropTo rest s).scratch.need from last)]
    rfl
  · rw [if_neg last, if_neg (show ¬(dropTo rest s).scratch.fill + 1 = (dropTo rest s).scratch.need from last)]
    rfl

/-- The engine reads literal bytes in ABS_READ as the record does. -/
theorem engineSteps_literals {literal rest : List Byte} {s : State} (state : s.status.state = .absRead)
    (fits : s.scratch.fill.toNat + literal.length ≤ s.scratch.need.toNat) (small : s.scratch.need.toNat ≤ 256)
    (bytes : s.source.bytes = literal ++ rest) :
    engineSteps literal.length s = readLiterals literal (dropTo rest s) := by
  induction literal generalizing s with
  | nil =>
    rw [dropTo_self (rest := rest) bytes]
    rfl
  | cons r rs ih =>
    rw [List.length_cons] at fits ⊢
    have backed : s.scratch.fill.toNat < 256 := by omega
    have first : engineStep s = .next (afterLiteral r (afterSrcRead { s.source with bytes := rs ++ rest } s)) := by
      rw [engineStep_absRead state, srcRead_of_byte (source_next_of_bytes bytes)]
      exact latchLiteral_of_lt r backed
    have stored : latchLiteral r (countByte (dropTo rest s)) = .next (afterLiteral r (countByte (dropTo rest s))) :=
      latchLiteral_of_lt r backed
    have same : dropTo rest (afterLiteral r (afterSrcRead { s.source with bytes := rs ++ rest } s)) =
        afterLiteral r (countByte (dropTo rest s)) := (afterLiteral_dropTo r rest _).symm
    rw [engineSteps_succ_of_next first, readLiterals, stored, andThen_next, ← same]
    have given : (afterLiteral r (afterSrcRead { s.source with bytes := rs ++ rest } s)).source.bytes = rs ++ rest := by
      rw [afterLiteral_frame]
      rfl
    by_cases none : rs = []
    · subst none
      rw [dropTo_self (rest := rest) given]
      rfl
    have more : 0 < rs.length := List.length_pos_of_ne_nil none
    obtain ⟨scratch, status⟩ :=
      afterLiteral_more r (s := afterSrcRead { s.source with bytes := rs ++ rest } s)
        (show s.scratch.fill + 1 ≠ s.scratch.need by bv_omega)
    refine ih ?_ ?_ ?_ given
    · rw [status]; exact state
    · rw [scratch]
      show (s.scratch.fill + 1).toNat + rs.length ≤ s.scratch.need.toNat
      bv_omega
    · rw [scratch]; exact small

/-! ### Pixels -/

/-- Under the invariant the pixel steps of a record are as many single steps as the engine takes in RUN and ABS_EMIT. -/
theorem pixelSteps_eq_engineSteps (n : Nat) {s : State} (h : Inv s) :
    ∃ m t, engineSteps m s = .next t ∧ pixelSteps n s = .next t := by
  induction n generalizing s with
  | zero => exact ⟨0, s, rfl, rfl⟩
  | succ n ih =>
    by_cases pixel : s.status.state = .run ∨ s.status.state = .absEmit
    · have job : jobRuns s = true := by rcases pixel with state | state <;> rw [jobRuns, state]
      obtain ⟨u, first⟩ := progress_pixel (h.job job).config.1 pixel
      have first' : pixelSteps (n + 1) s = pixelSteps n u := by
        rcases pixel with state | state
        · rw [pixelSteps_run n state, ← engineStep_run state, first, andThen_next]
        · rw [pixelSteps_absEmit n state, ← engineStep_absEmit state, first, andThen_next]
      obtain ⟨m, t, steps, pixels⟩ := ih (inv_engineStep h first)
      exact ⟨m + 1, t, (engineSteps_succ_of_next first m).trans steps, first'.trans pixels⟩
    · exact ⟨0, s, rfl, pixelSteps_stop _ (fun run => pixel (.inl run)) fun emit => pixel (.inr emit)⟩

/-! ### Records -/

/-- What a record has in common with the engine: `exec` answers the state that at least two single steps reach. -/
def RecordSteps (i : Instr) (s : State) (rest : List Byte) : Prop :=
  ∃ n t, 2 ≤ n ∧ engineSteps n s = .next t ∧ exec i (dropTo rest s) = .next t

theorem RecordSteps.of_header {i : Instr} {s u : State} {rest : List Byte} {m : Nat}
    (header : engineSteps 2 s = .next u)
    (others : ∃ t, engineSteps m u = .next t ∧ exec i (dropTo rest s) = .next t) : RecordSteps i s rest := by
  obtain ⟨t, steps, record⟩ := others
  exact ⟨2 + m, t, Nat.le_add_right 2 m, (engineSteps_add_of_next header m).trans steps, record⟩

section
variable {s : State} {rest : List Byte} (h : Inv s) (state : s.status.state = .hdrA)
include state

theorem recordSteps_eol (bytes : s.source.bytes = 0 :: 0 :: rest) : RecordSteps .eol s rest :=
  .of_header (m := 0) (engineSteps_header state bytes) ⟨_, rfl, rfl⟩

theorem recordSteps_eob (bytes : s.source.bytes = 0 :: 1 :: rest) : RecordSteps .eob s rest :=
  .of_header (m := 0) (engineSteps_header state bytes) ⟨_, rfl, rfl⟩

theorem recordSteps_delta {dx dy : Byte} (bytes : s.source.bytes = 0 :: 2 :: dx :: dy :: rest) :
    RecordSteps (.delta dx dy) s rest := by
  refine .of_header (m := 2) (engineSteps_header state bytes) ⟨_, ?_, rfl⟩
  have first : engineStep (dispatchHeader 2 (readHeader 0 2 (dropTo (dx :: dy :: rest) s))) =
      .next (latchDx dx (countByte (enterDelta (readHeader 0 2 (dropTo (dy :: rest) s))))) := by
    rw [engineStep_deltaX rfl, srcRead_of_byte (source_next_of_bytes rfl)]
    rfl
  rw [engineSteps_succ_of_next first, engineSteps_one, engineStep_deltaY rfl,
    srcRead_of_byte (source_next_of_bytes rfl)]
  rfl

include h

theorem recordSteps_encodedRun {a b : Byte} (ha : a ≠ 0) (bytes : s.source.bytes = a :: b :: rest) :
    RecordSteps (.encodedRun a b) s rest := by
  have header := engineSteps_header state bytes
  rw [dispatchHeader_encodedRun b (s := readHeader a b (dropTo rest s)) ha] at header
  obtain ⟨m, t, steps, pixels⟩ := pixelSteps_eq_engineSteps a.toNat (inv_engineSteps h header)
  exact .of_header header ⟨t, steps, pixels⟩

theorem recordSteps_absolute {b : Byte} {literal : List Byte} (hb : 3 ≤ b.toNat)
    (hlen : literal.length = paddedLength b.toNat s.depth) (bytes : s.source.bytes = 0 :: b :: (literal ++ rest)) :
    RecordSteps (.absolute b literal) s rest := by
  have header := engineSteps_header state bytes
  rw [dispatchHeader_absolute (s := readHeader 0 b (dropTo (literal ++ rest) s)) rfl hb] at header
  have entered := inv_engineSteps h header
  obtain ⟨_, ⟨legal, _⟩, _, _, _, _, need, _⟩ := entered.job rfl
  have filled : (0#9).toNat + literal.length = paddedLength b.toNat s.depth := by rw [hlen]; exact Nat.zero_add _
  have fits := filled.trans need.symm
  have small := need.trans_le (paddedLength_bounds legal hb).2
  have read := engineSteps_literals (literal := literal) (rest := rest) rfl fits.le small rfl
  obtain ⟨u, literals, _⟩ := readLiterals_literalsRead
    (s := dropTo rest (enterAbsolute b (readHeader 0 b (dropTo (literal ++ rest) s)))) fits.le small
  have reads := read.trans literals
  obtain ⟨m, t, steps, pixels⟩ := pixelSteps_eq_engineSteps b.toNat (inv_engineSteps entered reads)
  refine .of_header header ⟨t, (engineSteps_add_of_next reads m).trans steps, ?_⟩
  have record : exec (.absolute b literal) (dropTo rest s) =
      andThen (readLiterals literal (dropTo rest (enterAbsolute b (readHeader 0 b (dropTo (literal ++ rest) s)))))
        (pixelSteps b.toNat) := rfl
  rw [record, literals, andThen_next, pixels]

/-- Each record kind on its own bytes. -/
theorem recordSteps {i : Instr} (wf : i.wf s.depth = true) (record : recordBytes i ≠ [])
    (bytes : s.source.bytes = recordBytes i ++ rest) : RecordSteps i s rest := by
  cases i with
  | encodedRun a b => exact recordSteps_encodedRun h state (by simpa [Instr.wf] using wf) bytes
  | eol => exact recordSteps_eol state bytes
  | eob => exact recordSteps_eob state bytes
  | delta dx dy => exact recordSteps_delta state bytes
  | absolute b literal =>
    simp only [Instr.wf, Bool.and_eq_true, decide_eq_true_eq, beq_iff_eq] at wf
    exact recordSteps_absolute h state wf.1 wf.2 bytes
  | nop | clear | decode | getIndex | setIndex | reserved5 | reserved6 | reserved7 | reserved8 | reserved9
  | reserved10 | reserved11 | reserved12 | reserved13 | reserved14 | reserved15 => exact absurd rfl record

end

/-- Settles O58: the header is two steps, and the rest of each record as many as its bytes and pixels. -/
theorem recordIsItsEngineSteps : Obligations.RecordIsItsEngineSteps := by
  unfold Obligations.RecordIsItsEngineSteps
  intro i s rest inv state wf record bytes
  obtain ⟨n, t, two, steps, whole⟩ := recordSteps inv state wf record bytes
  exact ⟨n, two, steps.trans whole.symm⟩

end Sys2Proof.Machine
end

section
/-! 70_reset_and_hazards.md R232, 20_memory.md R66 and R69: every step of every agent keeps the invariant, and where no
agent has a step. -/

namespace Sys2Proof.Machine

/-! ### Which agent takes the step -/

/-- The step is the engine's turn, or that of the event at the head of the list (log 6). -/
theorem step_cases (s : State) :
    ((s.inputs = [] ∨ ∃ rest, s.inputs = .wait :: rest ∧ s.status.busy = true) ∧ step s = engineTurn s) ∨
    ∃ e rest, s.inputs = e :: rest ∧ step s = eventStep e (s.setInputs rest) := by
  by_cases turn : s.inputs = [] ∨ ∃ rest, s.inputs = .wait :: rest ∧ s.status.busy = true
  · exact .inl ⟨turn, step_of_turn turn⟩
  · cases event : s.inputs with
    | nil => exact absurd (.inl event) turn
    | cons e rest =>
      refine .inr ⟨e, rest, rfl, step_of_event event ?_⟩
      rintro ⟨rfl, busy⟩
      exact turn (.inr ⟨rest, event, busy⟩)

/-- Under the invariant the engine's turn is one or more of its single steps: one, or those of a record that is wholly
listed, which never wait. -/
theorem engineTurn_cases {s : State} (h : Inv s) :
    engineTurn s = engineStep s ∨ ∃ n t, engineSteps n s = .next t ∧ engineTurn s = .next t := by
  by_cases record : s.status.state = .hdrA ∧ ∃ i rest, decodeRecord s.depth s.source.bytes = .instr i rest
  · obtain ⟨state, i, rest, decoded⟩ := record
    obtain ⟨wf, isRecord, bytes⟩ := record_of_decodeRecord decoded
    obtain ⟨n, t, _, steps, whole⟩ := recordSteps h state wf isRecord bytes
    exact .inr ⟨n, t, steps, (engineTurn_of_record state decoded).trans whole⟩
  · exact .inl (engineTurn_of_no_record record)

theorem inv_engineTurn {s t : State} (h : Inv s) (turn : engineTurn s = .next t) : Inv t := by
  rcases engineTurn_cases h with e | ⟨n, u, steps, e⟩
  · exact inv_engineStep h (e.symm.trans turn)
  · cases e.symm.trans turn
    exact inv_engineSteps h steps

/-! ### The host -/

/-- A write that BUSY = 1 locks keeps the invariant if what it stores while idle does. -/
theorem inv_unlessBusy {s stored : State} (h : Inv s) (idle : s.status.busy = false → Inv stored) :
    Inv (unlessBusy s stored) := by
  cases busy : s.status.busy with
  | true => rw [unlessBusy_busy stored busy]; exact inv_markIgnored h
  | false => rw [unlessBusy_idle stored busy]; exact idle busy

theorem inv_writeWindowByte {s : State} (h : Inv s) (j : Nat) (v : Byte) : Inv (writeWindowByte s j v) := by
  unfold writeWindowByte
  split
  next backed => exact inv_planeWrite h v backed
  next => exact h

theorem inv_writeWindowBytes {s : State} (h : Inv s) (k : Nat) (data : Word) : Inv (writeWindowBytes s k data) :=
  inv_writeWindowByte (inv_writeWindowByte (inv_writeWindowByte (inv_writeWindowByte h _ _) _ _) _ _) _ _

theorem inv_hostWriteState {s : State} (h : Inv s) (addr data : Word) : Inv (hostWriteState s addr data) := by
  rcases hostWriteState_cases s addr data with e | ⟨_, command, e⟩ | ⟨regs, e⟩ | ⟨k, e⟩ <;> rw [e]
  · exact h
  · rw [← commandField_eq]
    exact inv_unlessBusy h fun _ => inv_accept h (mt (commandField_eq_zero_iff data).mp command)
  · exact inv_unlessBusy h fun idle => inv_setRegs h (not_job_of_not_busy h idle) regs
  · exact inv_unlessBusy h fun _ => inv_writeWindowBytes h k data

/-! ### The invariant -/

theorem inv_eventStep {s t : State} {e : Event} (h : Inv s) (event : eventStep e s = .next t) : Inv t := by
  cases e with
  | hostWrite addr data =>
    cases (hostWriteStep_eq addr data s).symm.trans event
    exact inv_hostWriteState h addr data
  | hostRead addr => cases event; exact inv_setReadData h _
  | wait => cases event; exact h
  | engine => exact inv_engineStep h event
  | sourceByte b => cases event; rw [offerByte_eq]; exact inv_setSource h _
  | sourceEof => cases event; rw [offerRest_eq]; exact inv_setSource h _
  | sourceCycle b bs => cases event; rw [offerRest_eq]; exact inv_setSource h _
  | sourceFree stream => cases event; rw [offerRest_eq]; exact inv_setSource h _
  | sourceStart => cases event; rw [startStream_eq]; exact inv_setSource h _
  | reset => cases event; exact inv_resetBlock h

/-- Settles O55: the engine's turn is made of single steps, each of which keeps the invariant, and so does each
event. -/
theorem everyStepKeepsTheInvariant : Obligations.EveryStepKeepsTheInvariant := by
  unfold Obligations.EveryStepKeepsTheInvariant
  intro s t inv stepped
  rcases step_cases s with ⟨_, turn⟩ | ⟨e, rest, _, event⟩
  · exact inv_engineTurn inv (turn.symm.trans stepped)
  · exact inv_eventStep (inv_setInputs inv rest) (event.symm.trans stepped)

/-! ### Stops -/

theorem progress_engineTurn {s : State} (h : Inv s) :
    (∃ t, engineTurn s = .next t) ∨ (s.status.state = .idle ∧ engineTurn s = .fault .awaitingHost) ∨
    (s.sReady = true ∧ s.source = { bytes := [], rest := .nothing } ∧ engineTurn s = .fault .awaitingSource) := by
  rcases engineTurn_cases h with e | ⟨n, t, _, e⟩
  · rw [e]; exact progress_engineStep h
  · exact .inl ⟨t, e⟩

/-- Every event but the engine's turn has a step. -/
theorem progress_eventStep (s : State) {e : Event} (h : e ≠ .engine) : ∃ t, eventStep e s = .next t := by
  cases e with
  | hostWrite addr data => exact ⟨_, hostWriteStep_eq addr data s⟩
  | engine => exact absurd rfl h
  | hostRead | wait | sourceByte | sourceEof | sourceCycle | sourceFree | sourceStart | reset => exact ⟨_, rfl⟩

/-- Settles O56: only the engine can have no step, and it waits for the host in IDLE or for the source in a reading
state. -/
theorem stepsStopOnlyWhereTheBlockWaits : Obligations.StepsStopOnlyWhereTheBlockWaits := by
  unfold Obligations.StepsStopOnlyWhereTheBlockWaits
  intro s inv
  rcases step_cases s with ⟨turn, e⟩ | ⟨event, rest, inputs, e⟩
  · rw [e]
    rcases progress_engineTurn inv with next | ⟨idle, stops⟩ | ⟨ready, nothing, stops⟩
    · exact .inl next
    · refine .inr (.inl ⟨stops, idle, .inl (turn.resolve_right ?_)⟩)
      rintro ⟨_, _, busy⟩
      exact inv.busyState.mp busy idle
    · exact .inr (.inr ⟨stops, (sReady_iff s).mp ready, by rw [nothing], by rw [nothing],
        turn.imp_right fun ⟨events, wait, _⟩ => ⟨events, .inr wait⟩⟩)
  · rw [e]
    by_cases engine : event = .engine
    · subst engine
      rcases progress_engineStep (inv_setInputs inv rest) with next | ⟨idle, stops⟩ | ⟨ready, nothing, stops⟩
      · exact .inl next
      · exact .inr (.inl ⟨stops, idle, .inr ⟨rest, inputs⟩⟩)
      · exact .inr (.inr ⟨stops, (sReady_iff s).mp ready, congrArg Source.bytes nothing, congrArg Source.rest nothing,
          .inr ⟨rest, .inl inputs⟩⟩)
    · exact .inl (progress_eventStep _ engine)

end Sys2Proof.Machine
end

section
/-! 42_rle_decoder.md R152 to R154 and R160: the records without pixels, and what a run of pixels leaves in the plane. -/

namespace Sys2Proof.Machine

/-! ### EOL, EOB and DELTA -/

theorem add_one_add_one (x : Word) : x + 1 + 1 = x + 2 := by
  rw [BitVec.add_assoc]
  rfl

/-- Both header bytes are read and latched (42_rle_decoder.md R145, R147). -/
theorem readHeader_eq (a b : Byte) (s : State) :
    readHeader a b s =
      { s with
        counters := { s.counters with bytesConsumed := s.counters.bytesConsumed + 2 }
        scratch := { s.scratch with a := a, b := b }
        status := { s.status with state := .hdrB } } := by
  rw [← add_one_add_one]
  rfl

/-- Settles O42: the header, then the end of the line. -/
theorem eolMovesToTheNextScanline : Obligations.EolMovesToTheNextScanline := by
  unfold Obligations.EolMovesToTheNextScanline
  intro s
  have record : exec .eol s = .next (lineEnd (readHeader 0 0 s)) := rfl
  rw [record, readHeader_eq]
  rfl

/-- Settles O43: the header, then the end of the command. -/
theorem eobEndsTheDecode : Obligations.EobEndsTheDecode := by
  unfold Obligations.EobEndsTheDecode
  intro s
  have record : exec .eob s = .next (finish (readHeader 0 1 s)) := rfl
  rw [record, readHeader_eq]
  rfl

/-- Settles O44: the header, then two more bytes and the two moves. -/
theorem deltaMovesTheCursor : Obligations.DeltaMovesTheCursor := by
  unfold Obligations.DeltaMovesTheCursor
  intro dx dy s
  have record : exec (.delta dx dy) s =
      .next (moveByDelta dy (countByte (latchDx dx (countByte (enterDelta (readHeader 0 2 s)))))) := rfl
  have four : s.counters.bytesConsumed + 2 + 1 + 1 = s.counters.bytesConsumed + 4 := by
    rw [add_one_add_one, BitVec.add_assoc]
    rfl
  rw [record, readHeader_eq, ← four]
  rfl

/-! ### The pixels of a painted byte -/

/-- The bytes painted depend on the values of the run's own pixels alone. -/
theorem paintedByte_congr {s : State} {m : Nat} {value value' : Nat → Byte} (h : ∀ i, i < m → value i = value' i)
    (k : Nat) : paintedByte s m value k = paintedByte s m value' k := by
  induction m with
  | zero => rfl
  | succ m ih =>
    rw [paintedByte_succ, paintedByte_succ, h m (Nat.lt_succ_self m), ih fun i hi => h i (Nat.lt_succ_of_lt hi)]

/-- The index of pixel (x, y) in the bytes painted by `m` pixels from the cursor of `s` on. -/
def paintedPixel (s : State) (m : Nat) (value : Nat → Byte) (x y : Nat) : Byte :=
  extractIndex (paintedByte s m value (pixelByte s.depth s.imageWidth x y)) (pixelSlot s.depth s.imageWidth x y) s.depth

section
variable {s : State} {m x y : Nat} {value : Nat → Byte} (legal : LegalConfig s.regs s.capacity)
include legal

/-- One more pixel changes its own index and no other. -/
theorem paintedPixel_succ (row : s.counters.curX.toNat + m < s.imageWidth) (hx : x < s.imageWidth) :
    paintedPixel s (m + 1) value x y =
      if x = s.counters.curX.toNat + m ∧ y = s.counters.curY.toInt.toNat then
        BitVec.ofNat 8 ((value m).toNat % 2 ^ s.depth)
      else paintedPixel s m value x y := by
  rw [paintedPixel, paintedByte_succ]
  split_ifs with byte pixel pixel
  · obtain ⟨rfl, rfl⟩ := pixel
    exact extractIndex_insertIndex_same _ _ (pixelSlot_lt legal _ _)
  · exact extractIndex_insertIndex_other _ _ (pixelSlot_lt legal _ _) (pixelSlot_lt legal _ _)
      fun slot => pixel (pixel_inj hx row byte slot)
  · obtain ⟨rfl, rfl⟩ := pixel
    exact absurd rfl byte
  · rfl

/-- A pixel outside the run keeps its index. -/
theorem paintedPixel_other (fits : s.counters.curX.toNat + m ≤ s.imageWidth) (hx : x < s.imageWidth)
    (outside : ¬(y = s.counters.curY.toInt.toNat ∧ s.counters.curX.toNat ≤ x ∧ x < s.counters.curX.toNat + m)) :
    paintedPixel s m value x y = s.pixel x y := by
  induction m with
  | zero => rfl
  | succ m ih => rw [paintedPixel_succ legal fits hx, if_neg (by omega), ih (by omega) (by omega)]

/-- Pixel `i` of the run takes the low bits of its value. -/
theorem paintedPixel_same (fits : s.counters.curX.toNat + m ≤ s.imageWidth) {i : Nat} (hi : i < m) :
    paintedPixel s m value (s.counters.curX.toNat + i) s.counters.curY.toInt.toNat =
      BitVec.ofNat 8 ((value i).toNat % 2 ^ s.depth) := by
  induction m with
  | zero => exact absurd hi (Nat.not_lt_zero i)
  | succ m ih =>
    rw [paintedPixel_succ legal fits (by omega)]
    by_cases last : i = m
    · subst last
      rw [if_pos ⟨rfl, rfl⟩]
    · rw [if_neg (by omega), ih (by omega) (by omega)]

end

/-! ### A run of pixels written -/

/-- `t` is `s` after `m` pixels from the cursor to the right, whatever the datapath registers and STATUS are then. -/
structure Painted (s : State) (m : Nat) (value : Nat → Byte) (t : State) : Prop where
  frame : t = { s with
    plane := t.plane, scratch := t.scratch, status := t.status
    counters := { s.counters with
      curX := s.counters.curX + BitVec.ofNat 32 m
      pixelsWritten := s.counters.pixelsWritten + BitVec.ofNat 32 m } }
  bytes : ∀ k, t.planeRead k = paintedByte s m value k

theorem painted_zero (s : State) (value : Nat → Byte) : Painted s 0 value s where
  frame := by simp
  bytes _ := rfl

section
variable {s t : State} {m : Nat} {value : Nat → Byte} (h : Painted s m value t)
include h

theorem Painted.regs : t.regs = s.regs := by rw [h.frame]
theorem Painted.capacity : t.capacity = s.capacity := by rw [h.frame]
theorem Painted.curY : t.counters.curY = s.counters.curY := by rw [h.frame]

theorem Painted.curX (fits : s.counters.curX.toNat + m ≤ s.imageWidth) :
    t.counters.curX.toNat = s.counters.curX.toNat + m := by
  have width := imageWidth_lt s
  rw [h.frame]
  show (s.counters.curX + BitVec.ofNat 32 m).toNat = _
  bv_omega

theorem Painted.pixel (x y : Nat) : t.pixel x y = paintedPixel s m value x y := by
  rw [State.pixel, h.bytes, State.depth, State.imageWidth, h.regs]
  rfl

/-- The step that writes the next pixel of the row. -/
theorem Painted.succ (row : s.counters.curX.toNat + m < s.imageWidth) (scratch : Scratch) (status : Status) :
    Painted s (m + 1) value (afterPixelStep (value m) scratch status t) := by
  have curX := h.curX row.le
  have width : t.imageWidth = s.imageWidth := congrArg (·.width.toNat) h.regs
  have depth : t.depth = s.depth := congrArg (·.depth.toNat) h.regs
  constructor
  · rw [afterPixelStep_frame _ scratch status (by omega), BitVec.ofNat_add, ← BitVec.add_assoc, ← BitVec.add_assoc,
      h.frame]
    rfl
  · intro k
    rw [planeRead_afterPixelStep, planeRead_afterPutPixel, paintedByte_succ t, paintedByte_zero, h.bytes,
      paintedByte_succ s, Nat.add_zero, curX, width, depth, h.curY]

end

end Sys2Proof.Machine
end

section
/-! 42_rle_decoder.md R150, R160 and R170: the pixel loops of RUN and ABS_EMIT, and the two records that write
pixels, when they fit their row and when they do not. -/

namespace Sys2Proof.Machine

/-! ### The pixel loops -/

theorem pixelSteps_add_of_next {m : Nat} {s t : State} (h : pixelSteps m s = .next t) (n : Nat) :
    pixelSteps (m + n) s = pixelSteps n t := by
  induction m generalizing s with
  | zero => cases h; rw [Nat.zero_add]
  | succ m ih =>
    rw [Nat.succ_add]
    by_cases run : s.status.state = .run
    · rw [pixelSteps_run m run] at h
      obtain ⟨u, first, others⟩ := andThen_next_cases h
      rw [pixelSteps_run _ run, first, andThen_next, ih others]
    by_cases absEmit : s.status.state = .absEmit
    · rw [pixelSteps_absEmit m absEmit] at h
      obtain ⟨u, first, others⟩ := andThen_next_cases h
      rw [pixelSteps_absEmit _ absEmit, first, andThen_next, ih others]
    · rw [pixelSteps_stop _ run absEmit] at h
      cases h
      rw [pixelSteps_stop _ run absEmit, pixelSteps_stop _ run absEmit]

/-- In RUN and ABS_EMIT one pixel step is one step of the engine. -/
theorem pixelSteps_succ {s : State} (state : s.status.state = .run ∨ s.status.state = .absEmit) (n : Nat) :
    pixelSteps (n + 1) s = andThen (engineStep s) (pixelSteps n) := by
  rcases state with run | absEmit
  · rw [pixelSteps_run n run, engineStep_run run]
  · rw [pixelSteps_absEmit n absEmit, engineStep_absEmit absEmit]

/-- A pixel step outside the image ends the run with BoundsError. -/
theorem pixelSteps_outside {s : State} (state : s.status.state = .run ∨ s.status.state = .absEmit)
    (outside : outsideImage s s.counters.curX.toNat s.counters.curY.toInt = true) {n : Nat} (hn : 0 < n) :
    pixelSteps n s = .next (raiseError .bounds s) := by
  obtain ⟨m, rfl⟩ := Nat.exists_eq_add_of_lt hn
  rw [Nat.zero_add, pixelSteps_succ state, engineStep_pixel_outside state outside, andThen_next]
  exact pixelSteps_stop m (by simp) (by simp)

/-- How many pixels the loop of RUN or ABS_EMIT still writes at its start: S.LEFT, or S.COUNT (R147, R172). -/
def loopCount (s : State) : Nat :=
  if s.status.state = .run then s.scratch.left.toNat else s.scratch.count.toNat

/-- The index of pixel `i` of the loop (R151, R173). -/
def loopIndex (s : State) (i : Nat) : Byte :=
  extractIndex (if s.status.state = .run then s.scratch.b else s.litRead (i / (8 / s.depth))) (i % (8 / s.depth))
    s.depth

/-- The datapath registers after `n` pixels of the loop: S.I counts up, and in RUN S.LEFT counts down. -/
def loopScratch (s : State) (n : Nat) : Scratch :=
  { s.scratch with
    i := BitVec.ofNat 8 n
    left := if s.status.state = .run then s.scratch.left - BitVec.ofNat 8 n else s.scratch.left }

/-- What `n` pixels of the loop leave; the last one leads to HDR_A. -/
structure LoopDone (s : State) (n : Nat) (t : State) : Prop where
  painted : Painted s n (loopIndex s) t
  scratch : t.scratch = loopScratch s n
  status : t.status = { s.status with state := if n = loopCount s then .hdrA else s.status.state }

theorem loopCount_lt (s : State) : loopCount s < 256 := by
  unfold loopCount
  split <;> exact BitVec.isLt _

theorem loopScratch_run_succ {s : State} (run : s.status.state = .run) (n : Nat) :
    { loopScratch s n with i := (loopScratch s n).i + 1, left := (loopScratch s n).left - 1 } =
      loopScratch s (n + 1) := by
  simp only [loopScratch, if_pos run, BitVec.ofNat_add, ← sub_sub]
  rfl

theorem loopScratch_absEmit_succ {s : State} (absEmit : s.status.state = .absEmit) (n : Nat) :
    { loopScratch s n with i := (loopScratch s n).i + 1 } = loopScratch s (n + 1) := by
  have notRun : s.status.state ≠ .run := by rw [absEmit]; decide
  simp only [loopScratch, if_neg notRun, BitVec.ofNat_add]
  rfl

/-- S.LEFT is 1 at the last pixel of a run (R151). -/
theorem loopScratch_left_eq_one_iff {s : State} (run : s.status.state = .run) {n : Nat} (more : n < loopCount s) :
    (loopScratch s n).left = 1 ↔ n + 1 = loopCount s := by
  have small := loopCount_lt s
  rw [loopCount, if_pos run] at more small ⊢
  simp only [loopScratch, if_pos run]
  bv_omega

/-- S.I reaches S.COUNT at the last pixel of an absolute run (R173). -/
theorem loopScratch_i_eq_count_iff {s : State} (absEmit : s.status.state = .absEmit) {n : Nat}
    (more : n < loopCount s) : (loopScratch s n).i + 1 = (loopScratch s n).count ↔ n + 1 = loopCount s := by
  have notRun : s.status.state ≠ .run := by rw [absEmit]; decide
  have small := loopCount_lt s
  rw [loopCount, if_neg notRun] at more small ⊢
  simp only [loopScratch]
  bv_omega

theorem loopDone_zero {s : State} (start : s.scratch.i = 0) (count : 0 < loopCount s) : LoopDone s 0 s where
  painted := painted_zero s _
  scratch := by
    have i : BitVec.ofNat 8 0 = s.scratch.i := start.symm
    rw [loopScratch, BitVec.sub_zero, ite_self, i]
  status := by rw [if_neg (Nat.ne_of_lt count)]

/-- One more pixel of the loop, by the step of its state. -/
theorem LoopDone.succ {s t : State} {n : Nat} (h : LoopDone s n t)
    (state : s.status.state = .run ∨ s.status.state = .absEmit) (legal : LegalConfig s.regs s.capacity)
    (hy : 0 ≤ s.counters.curY.toInt) (hy' : s.counters.curY.toInt < s.imageHeight) (more : n < loopCount s)
    (row : s.counters.curX.toNat + n < s.imageWidth) : ∃ u, pixelSteps 1 t = .next u ∧ LoopDone s (n + 1) u := by
  obtain ⟨painted, scratch, status⟩ := h
  rw [if_neg (Nat.ne_of_lt more)] at status
  have small := loopCount_lt s
  have same : t.status.state = s.status.state := by rw [status]
  have state' : t.status.state = .run ∨ t.status.state = .absEmit := by rw [same]; exact state
  have depth : t.depth = s.depth := congrArg (·.depth.toNat) painted.regs
  have width : t.imageWidth = s.imageWidth := congrArg (·.width.toNat) painted.regs
  have height : t.imageHeight = s.imageHeight := congrArg (·.height.toNat) painted.regs
  have inside : outsideImage t t.counters.curX.toNat t.counters.curY.toInt = false := by
    rw [outsideImage_false_iff, painted.curX row.le, painted.curY, width, height]
    omega
  have backed := pixel_backed (by rw [painted.regs, painted.capacity]; exact legal) inside
  have index : stepIndex t = loopIndex s n := by
    have i : t.scratch.i.toNat = n := by
      rw [scratch]
      exact Nat.mod_eq_of_lt (by omega)
    have literal (k : Nat) : t.litRead k = s.litRead k := by rw [painted.frame]; rfl
    rw [stepIndex, i, depth, same, literal, scratch]
    rfl
  obtain ⟨scratch', status', step, run, absEmit⟩ := engineStep_pixel_inside state' inside backed
  refine ⟨_, by rw [pixelSteps_succ state', step, andThen_next]; rfl, ?_⟩
  rw [index]
  have written := painted.succ row scratch' status'
  rcases state with state | state
  · obtain ⟨rfl, rfl⟩ := run (same.trans state)
    refine ⟨written, ?_, ?_⟩
    · rw [afterPixelStep, ← loopScratch_run_succ state, ← scratch]
    · simp only [afterPixelStep, scratch, status, loopScratch_left_eq_one_iff state more, state]
  · obtain ⟨rfl, rfl⟩ := absEmit (same.trans state)
    refine ⟨written, ?_, ?_⟩
    · rw [afterPixelStep, ← loopScratch_absEmit_succ state, ← scratch]
    · simp only [afterPixelStep, scratch, status, loopScratch_i_eq_count_iff state more, state]

/-- The loop writes pixels as long as there are some left and the row has room. -/
theorem loopDone {s : State} (state : s.status.state = .run ∨ s.status.state = .absEmit) (start : s.scratch.i = 0)
    (count : 0 < loopCount s) (legal : LegalConfig s.regs s.capacity) (hy : 0 ≤ s.counters.curY.toInt)
    (hy' : s.counters.curY.toInt < s.imageHeight) {n : Nat} (hn : n ≤ loopCount s)
    (fits : s.counters.curX.toNat + n ≤ s.imageWidth) : ∃ t, pixelSteps n s = .next t ∧ LoopDone s n t := by
  induction n with
  | zero => exact ⟨s, rfl, loopDone_zero start count⟩
  | succ n ih =>
    obtain ⟨t, first, done⟩ := ih (Nat.le_of_succ_le hn) (by omega)
    obtain ⟨u, next, done'⟩ := done.succ state legal hy hy' hn fits
    exact ⟨u, (pixelSteps_add_of_next first 1).trans next, done'⟩

/-- The whole loop, when its pixels fit the row. -/
theorem loop_fits {s : State} (state : s.status.state = .run ∨ s.status.state = .absEmit) (start : s.scratch.i = 0)
    (count : 0 < loopCount s) (legal : LegalConfig s.regs s.capacity) (hy : 0 ≤ s.counters.curY.toInt)
    (hy' : s.counters.curY.toInt < s.imageHeight) (fits : s.counters.curX.toNat + loopCount s ≤ s.imageWidth) :
    ∃ t, pixelSteps (loopCount s) s = .next t ∧ LoopDone s (loopCount s) t :=
  loopDone state start count legal hy hy' le_rfl fits

/-- How many pixels a loop writes that does not fit: those up to the end of its row, and none below row 0. -/
def roomInRow (s : State) : Nat := if s.counters.curY.toInt < 0 then 0 else s.imageWidth - s.counters.curX.toNat

/-- The loop, when its pixels do not fit the image: it stops with BoundsError after those that do (R160). -/
theorem loop_overruns {s : State} (state : s.status.state = .run ∨ s.status.state = .absEmit)
    (start : s.scratch.i = 0) (count : 0 < loopCount s) (legal : LegalConfig s.regs s.capacity)
    (cursor : s.counters.curX.toNat ≤ s.imageWidth)
    (overrun : s.counters.curY.toInt < 0 ∨ 0 ≤ s.counters.curY.toInt ∧ s.counters.curY.toInt < s.imageHeight ∧
      s.imageWidth < s.counters.curX.toNat + loopCount s) :
    ∃ t, pixelSteps (loopCount s) s = .next (raiseError .bounds t) ∧ LoopDone s (roomInRow s) t := by
  by_cases below : s.counters.curY.toInt < 0
  · rw [roomInRow, if_pos below]
    have outside : outsideImage s s.counters.curX.toNat s.counters.curY.toInt = true := by
      rw [← Bool.not_eq_false, outsideImage_false_iff]
      omega
    exact ⟨s, pixelSteps_outside state outside count, loopDone_zero start count⟩
  obtain ⟨hy, hy', past⟩ := overrun.resolve_left below
  rw [roomInRow, if_neg below]
  obtain ⟨m, hm⟩ : ∃ m, loopCount s = s.imageWidth - s.counters.curX.toNat + m :=
    Nat.exists_eq_add_of_le (by omega)
  obtain ⟨t, steps, done⟩ := loopDone state start count legal hy hy' (Nat.le.intro hm.symm)
    (Nat.add_sub_cancel' cursor).le
  have same : t.status.state = s.status.state := by rw [done.status, if_neg (by omega)]
  have outside : outsideImage t t.counters.curX.toNat t.counters.curY.toInt = true := by
    have width : t.imageWidth = s.imageWidth := congrArg (·.width.toNat) done.painted.regs
    rw [← Bool.not_eq_false, outsideImage_false_iff, done.painted.curX (by omega), width]
    omega
  refine ⟨t, ?_, done⟩
  rw [hm, pixelSteps_add_of_next steps, pixelSteps_outside (by rw [same]; exact state) outside (by omega)]

theorem roomInRow_fits {s : State} (cursor : s.counters.curX.toNat ≤ s.imageWidth) :
    s.counters.curX.toNat + roomInRow s ≤ s.imageWidth := by
  unfold roomInRow
  split <;> omega

/-! ### What the pixels of a loop are -/

section
variable {s t : State} {n : Nat} (h : LoopDone s n t)
include h

theorem LoopDone.frame :
    t = { s with
      plane := t.plane, scratch := loopScratch s n
      status := { s.status with state := if n = loopCount s then .hdrA else s.status.state }
      counters := { s.counters with
        curX := s.counters.curX + BitVec.ofNat 32 n
        pixelsWritten := s.counters.pixelsWritten + BitVec.ofNat 32 n } } := by
  rw [← h.scratch, ← h.status]
  exact h.painted.frame

theorem LoopDone.pixel_same (legal : LegalConfig s.regs s.capacity) (fits : s.counters.curX.toNat + n ≤ s.imageWidth)
    {i : Nat} (hi : i < n) :
    t.pixel (s.counters.curX.toNat + i) s.counters.curY.toInt.toNat = loopIndex s i := by
  rw [h.painted.pixel, paintedPixel_same legal fits hi]
  exact ofNat_extractIndex_mod _ _ _

theorem LoopDone.pixel_other (legal : LegalConfig s.regs s.capacity)
    (fits : s.counters.curX.toNat + n ≤ s.imageWidth) {x y : Nat} (hx : x < s.imageWidth)
    (outside : ¬(y = s.counters.curY.toInt.toNat ∧ s.counters.curX.toNat ≤ x ∧ x < s.counters.curX.toNat + n)) :
    t.pixel x y = s.pixel x y := by
  rw [h.painted.pixel, paintedPixel_other legal fits hx outside]

theorem LoopDone.byte_other {k : Nat}
    (other : ∀ i, i < n →
      k ≠ pixelByte s.depth s.imageWidth (s.counters.curX.toNat + i) s.counters.curY.toInt.toNat) :
    t.planeRead k = s.planeRead k := by
  rw [h.painted.bytes, paintedByte_of_ne _ other]

end

end Sys2Proof.Machine
end

section
/-! 42_rle_decoder.md R150 and R170: ENCODED_RUN and ABSOLUTE, when they fit their row and when they do not. -/

namespace Sys2Proof.Machine

/-! ### ENCODED_RUN -/

/-- The state in which the RUN steps of an encoded run begin (42_rle_decoder.md R147). -/
def runStart (a b : Byte) (s : State) : State :=
  { s with
    counters := { s.counters with bytesConsumed := s.counters.bytesConsumed + 2 }
    scratch := { s.scratch with a := a, b := b, left := a, i := 0 }
    status := { s.status with state := .run } }

theorem loopCount_runStart (a b : Byte) (s : State) : loopCount (runStart a b s) = a.toNat := if_pos rfl

/-- The index of pixel `i` of an encoded run with the pattern `b` (R150). -/
def patternIndex (b : Byte) (depth i : Nat) : Byte := extractIndex b (i % (8 / depth)) depth

theorem loopIndex_runStart (a b : Byte) (s : State) : loopIndex (runStart a b s) = patternIndex b s.depth := by
  funext i
  have pattern : (if (runStart a b s).status.state = .run then (runStart a b s).scratch.b
    else (runStart a b s).litRead (i / (8 / s.depth))) = b := if_pos rfl
  exact congrArg (extractIndex · (i % (8 / s.depth)) s.depth) pattern

theorem loopScratch_runStart (a b : Byte) (s : State) (n : Nat) :
    loopScratch (runStart a b s) n =
      { s.scratch with a := a, b := b, i := BitVec.ofNat 8 n, left := a - BitVec.ofNat 8 n } := by
  have left : (if (runStart a b s).status.state = .run then a - BitVec.ofNat 8 n else a) = a - BitVec.ofNat 8 n :=
    if_pos rfl
  rw [← left]
  rfl

theorem exec_encodedRun (a b : Byte) (s : State) :
    exec (.encodedRun a b) s = pixelSteps (loopCount (runStart a b s)) (runStart a b s) := by
  have record : exec (.encodedRun a b) s = pixelSteps a.toNat (enterRun (readHeader a b s)) := rfl
  rw [record, readHeader_eq, loopCount_runStart]
  rfl

theorem loopCount_runStart_pos {a : Byte} (ha : a ≠ 0) (b : Byte) (s : State) : 0 < loopCount (runStart a b s) := by
  rw [loopCount_runStart]
  bv_omega

/-- Settles O45: the loop of RUN, all of whose pixels fit. -/
theorem encodedRunWritesItsPixels : Obligations.EncodedRunWritesItsPixels := by
  unfold Obligations.EncodedRunWritesItsPixels
  intro a b s ha legal hy hy' fits
  have count := loopCount_runStart a b s
  have index := loopIndex_runStart a b s
  obtain ⟨t, steps, done⟩ := loop_fits (s := runStart a b s) (.inl rfl) rfl (loopCount_runStart_pos ha b s) legal hy hy'
    (by rw [count]; exact fits)
  rw [← exec_encodedRun] at steps
  rw [count] at done
  refine ⟨t, steps, ?frame, fun i hi => ?pixel, fun x y hx _ out => done.pixel_other legal fits hx out, fun k => ?byte,
    fun k other => done.byte_other other⟩
  case frame =>
    have frame := done.frame
    have all : BitVec.ofNat 8 a.toNat = a := by rw [BitVec.ofNat_toNat, BitVec.setWidth_eq]
    rw [loopScratch_runStart, all, BitVec.sub_self, if_pos count.symm] at frame
    exact frame
  case pixel => exact (done.pixel_same legal fits hi).trans (congrFun index i)
  case byte =>
    rw [done.painted.bytes, index]
    rfl

/-- Settles O46: the loop of RUN, stopped at the end of the row, or before its first pixel. -/
theorem encodedRunOverrunRaisesBoundsError : Obligations.EncodedRunOverrunRaisesBoundsError := by
  unfold Obligations.EncodedRunOverrunRaisesBoundsError
  intro a b s ha legal cursor
  have count := loopCount_runStart a b s
  have index := loopIndex_runStart a b s
  have positive := loopCount_runStart_pos ha b s
  have overruns := loop_overruns (s := runStart a b s) (.inl rfl) rfl positive legal cursor
  rw [← exec_encodedRun] at overruns
  refine ⟨fun hy hy' past => ?overrun, fun below => ?below⟩
  case overrun =>
    have room : roomInRow (runStart a b s) = s.imageWidth - s.counters.curX.toNat := if_neg (Int.not_lt.mpr hy)
    have fits := roomInRow_fits (s := runStart a b s) cursor
    obtain ⟨t, steps, done⟩ := overruns (.inr ⟨hy, hy', by rw [count]; exact past⟩)
    rw [room] at done fits
    refine ⟨_, steps, ?frame, fun i hi => ?pixel, fun x y hx _ out => ?other, fun k => ?byte, fun k other => ?kept⟩
    case frame =>
      have edge : (runStart a b s).counters.curX + BitVec.ofNat 32 (s.imageWidth - s.counters.curX.toNat) =
          s.regs.width := by
        have left : s.counters.curX.toNat ≤ s.regs.width.toNat := cursor
        show s.counters.curX + BitVec.ofNat 32 (s.regs.width.toNat - s.counters.curX.toNat) = s.regs.width
        bv_omega
      have left : a - BitVec.ofNat 8 (s.imageWidth - s.counters.curX.toNat) =
          BitVec.ofNat 8 (a.toNat - (s.imageWidth - s.counters.curX.toNat)) := by bv_omega
      have frame := congrArg (raiseError .bounds) done.frame
      rw [loopScratch_runStart, edge, left] at frame
      exact frame
    case pixel => exact (done.pixel_same legal fits (by omega)).trans (congrFun index i)
    case other => exact done.pixel_other legal fits hx fun ⟨row, left, _⟩ => out ⟨row, left⟩
    case byte => exact (done.painted.bytes k).trans (by rw [index]; rfl)
    case kept => exact done.byte_other fun i hi => other i (by omega)
  case below =>
    have outside : outsideImage (runStart a b s) s.counters.curX.toNat s.counters.curY.toInt = true := by
      rw [← Bool.not_eq_false, outsideImage_false_iff]
      omega
    rw [exec_encodedRun]
    exact pixelSteps_outside (s := runStart a b s) (.inl rfl) outside positive

/-! ### ABSOLUTE -/

/-- The state in which the ABS_EMIT steps of an absolute run of `n` literal bytes begin, with this LIT_BUF
(42_rle_decoder.md R147, R172). -/
def emitStart (b : Byte) (n : Nat) (litBuf : Memory) (s : State) : State :=
  { s with
    litBuf := litBuf
    counters := { s.counters with bytesConsumed := s.counters.bytesConsumed + BitVec.ofNat 32 (2 + n) }
    scratch := { s.scratch with
      a := 0, b := b, count := b, need := BitVec.ofNat 9 n, fill := BitVec.ofNat 9 n, i := 0 }
    status := { s.status with state := .absEmit } }

theorem loopCount_emitStart (b : Byte) (n : Nat) (litBuf : Memory) (s : State) :
    loopCount (emitStart b n litBuf s) = b.toNat := if_neg (by decide : EngineState.absEmit ≠ .run)

theorem loopScratch_emitStart (b : Byte) (n : Nat) (litBuf : Memory) (s : State) (m : Nat) :
    loopScratch (emitStart b n litBuf s) m =
      { s.scratch with
        a := 0, b := b, count := b, need := BitVec.ofNat 9 n, fill := BitVec.ofNat 9 n, i := BitVec.ofNat 8 m } := by
  have left : (if (emitStart b n litBuf s).status.state = .run then s.scratch.left - BitVec.ofNat 8 m
    else s.scratch.left) = s.scratch.left := if_neg (by decide : EngineState.absEmit ≠ .run)
  exact congrArg (fun left => { (emitStart b n litBuf s).scratch with i := BitVec.ofNat 8 m, left := left }) left

/-- The header and the literal bytes of an absolute run (R170): the bytes stand in LIT_BUF, and ABS_EMIT begins. -/
theorem exec_absolute {b : Byte} {literal : List Byte} {s : State} (legal : LegalConfig s.regs s.capacity)
    (hb : 3 ≤ b.toNat) (hlen : literal.length = paddedLength b.toNat s.depth) :
    ∃ litBuf, exec (.absolute b literal) s =
        pixelSteps (loopCount (emitStart b literal.length litBuf s)) (emitStart b literal.length litBuf s) ∧
      ∀ k, (emitStart b literal.length litBuf s).litRead k = literal.getD k (s.litRead k) := by
  obtain ⟨positive, small⟩ := paddedLength_bounds legal hb
  change 0 < paddedLength b.toNat s.depth at positive
  change paddedLength b.toNat s.depth ≤ 256 at small
  rw [← hlen] at positive small
  have need : (BitVec.ofNat 9 literal.length).toNat = literal.length := by
    rw [BitVec.toNat_ofNat]
    omega
  have entered : enterAbsolute b (readHeader 0 b s) = { s with
      counters := { s.counters with bytesConsumed := s.counters.bytesConsumed + 2 }
      scratch := { s.scratch with a := 0, b := b, count := b, need := BitVec.ofNat 9 literal.length, fill := 0 }
      status := { s.status with state := .absRead } } := by
    rw [readHeader_eq, hlen]
    rfl
  have record : exec (.absolute b literal) s =
      andThen (readLiterals literal (enterAbsolute b (readHeader 0 b s))) (pixelSteps b.toNat) := rfl
  have fits : (0#9).toNat + literal.length = (BitVec.ofNat 9 literal.length).toNat := by
    rw [need]
    exact Nat.zero_add _
  rw [record, entered]
  obtain ⟨u, read, result⟩ := readLiterals_literalsRead (literal := literal) (s := { s with
      counters := { s.counters with bytesConsumed := s.counters.bytesConsumed + 2 }
      scratch := { s.scratch with a := 0, b := b, count := b, need := BitVec.ofNat 9 literal.length, fill := 0 }
      status := { s.status with state := .absRead } }) fits.le (by rw [need]; exact small)
  obtain ⟨scratch, status⟩ := result.last fits (List.ne_nil_of_length_pos positive)
  have start : u = emitStart b literal.length u.litBuf s := by
    have frame := result.frame
    rw [scratch, status] at frame
    rw [emitStart, BitVec.ofNat_add, ← BitVec.add_assoc]
    exact frame
  refine ⟨u.litBuf, ?_, fun k => ?_⟩
  · rw [read, andThen_next, ← start, start, loopCount_emitStart]
  · rw [← start, result.litRead k]
    exact if_pos (Nat.zero_le k)

/-- The literal byte of pixel `i` is one of the run's. -/
theorem literal_index_lt {s : State} (legal : LegalConfig s.regs s.capacity) {b i : Nat} (hi : i < b) :
    i / (8 / s.depth) < paddedLength b s.depth := by
  obtain ⟨depth, _⟩ := legal
  change s.depth = 1 ∨ s.depth = 2 ∨ s.depth = 4 ∨ s.depth = 8 at depth
  rw [paddedLength_eq_size_add_parity, sizeFromWidth_eq]
  rcases depth with d | d | d | d <;> rw [d] <;> omega

/-- The index of pixel `i` of an absolute run with these literal bytes (R170). -/
def literalIndex (literal : List Byte) (depth i : Nat) : Byte :=
  extractIndex (literal.getD (i / (8 / depth)) 0) (i % (8 / depth)) depth

theorem loopIndex_emitStart {b : Byte} {literal : List Byte} {litBuf : Memory} {s : State}
    (legal : LegalConfig s.regs s.capacity) (hlen : literal.length = paddedLength b.toNat s.depth)
    (stored : ∀ k, (emitStart b literal.length litBuf s).litRead k = literal.getD k (s.litRead k)) {i : Nat}
    (hi : i < b.toNat) : loopIndex (emitStart b literal.length litBuf s) i = literalIndex literal s.depth i := by
  have inLiteral : i / (8 / s.depth) < literal.length := hlen ▸ literal_index_lt legal hi
  have byte : (if (emitStart b literal.length litBuf s).status.state = .run then b
      else (emitStart b literal.length litBuf s).litRead (i / (8 / s.depth))) =
      literal.getD (i / (8 / s.depth)) 0 := by
    refine (if_neg (by decide : EngineState.absEmit ≠ .run)).trans ?_
    rw [stored, List.getD_eq_getElem _ _ inLiteral, List.getD_eq_getElem _ _ inLiteral]
  exact congrArg (extractIndex · (i % (8 / s.depth)) s.depth) byte

/-- Settles O47: the literal bytes, then the loop of ABS_EMIT, all of whose pixels fit. -/
theorem absoluteRunWritesItsPixels : Obligations.AbsoluteRunWritesItsPixels := by
  unfold Obligations.AbsoluteRunWritesItsPixels
  intro b literal s hb hlen legal hy hy' fits
  obtain ⟨litBuf, record, stored⟩ := exec_absolute legal hb hlen
  have count := loopCount_emitStart b literal.length litBuf s
  have index (i : Nat) (hi : i < b.toNat) := loopIndex_emitStart legal hlen stored hi
  obtain ⟨t, steps, done⟩ := loop_fits (s := emitStart b literal.length litBuf s) (.inr rfl) rfl
    (by rw [count]; omega) legal hy hy' (by rw [count]; exact fits)
  rw [count] at done
  have frame := done.frame
  have all : BitVec.ofNat 8 b.toNat = b := by rw [BitVec.ofNat_toNat, BitVec.setWidth_eq]
  rw [loopScratch_emitStart, all, if_pos count.symm] at frame
  refine ⟨t, record.trans steps, ?frame, fun k => ?literal, fun i hi => ?pixel,
    fun x y hx _ out => done.pixel_other legal fits hx out, fun k => ?byte, fun k other => done.byte_other other⟩
  case frame =>
    have litBuf' : t.litBuf = litBuf := by rw [frame]; rfl
    rw [litBuf']
    exact frame
  case literal =>
    rw [frame]
    exact stored k
  case pixel => exact (done.pixel_same legal fits hi).trans (index i hi)
  case byte =>
    rw [done.painted.bytes]
    exact paintedByte_congr index k

/-- Settles O48: the literal bytes, then the loop of ABS_EMIT, stopped at the end of the row or before its first
pixel. -/
theorem absoluteRunOverrunRaisesBoundsError : Obligations.AbsoluteRunOverrunRaisesBoundsError := by
  unfold Obligations.AbsoluteRunOverrunRaisesBoundsError
  intro b literal s hb hlen legal cursor overrun
  obtain ⟨litBuf, record, stored⟩ := exec_absolute legal hb hlen
  have count := loopCount_emitStart b literal.length litBuf s
  obtain ⟨t, steps, done⟩ := loop_overruns (s := emitStart b literal.length litBuf s) (.inr rfl) rfl
    (by rw [count]; omega) legal cursor (by rw [count]; exact overrun)
  have fits := roomInRow_fits (s := emitStart b literal.length litBuf s) cursor
  have room : roomInRow (emitStart b literal.length litBuf s) = roomInRow s := rfl
  rw [room] at done fits
  have short : roomInRow s ≤ b.toNat := by
    unfold roomInRow
    split <;> omega
  have index (i : Nat) (hi : i < roomInRow s) := loopIndex_emitStart legal hlen stored (hi.trans_le short)
  have frame := congrArg (raiseError .bounds) done.frame
  rw [loopScratch_emitStart] at frame
  refine ⟨_, roomInRow s, record.trans steps, rfl, ?frame, fun k => ?literal, fun i hi => ?pixel,
    fun x y hx _ out => ?other, fun k => ?byte, fun k other => ?kept⟩
  case frame =>
    have litBuf' : (raiseError .bounds t).litBuf = litBuf := by rw [frame]; rfl
    rw [litBuf']
    exact frame
  case literal =>
    rw [frame]
    exact stored k
  case pixel => exact (done.pixel_same legal fits hi).trans (index i hi)
  case other =>
    refine done.pixel_other legal fits hx fun ⟨row, left, right⟩ => out ⟨?_, row, left⟩
    change x < s.counters.curX.toNat + roomInRow s at right
    change s.counters.curX.toNat ≤ x at left
    omega
  case byte => exact (done.painted.bytes k).trans (paintedByte_congr index k)
  case kept => exact done.byte_other other

end Sys2Proof.Machine
end

section
/-! 42_rle_decoder.md R181: a decode of a finite stream ends, one of an endless stream need not. -/

namespace Sys2Proof.Machine

/-! ### How many steps are left -/

/-- The pixels that the record at hand still writes. -/
def pixelsLeft (s : State) : Nat :=
  match s.status.state with
  | .run => s.scratch.left.toNat
  | .absEmit => s.scratch.count.toNat - s.scratch.i.toNat
  | .idle => 0
  | .exec => 0
  | .hdrA => 0
  | .hdrB => 0
  | .deltaX => 0
  | .deltaY => 0
  | .absRead => 0

/-- A bound on the steps of a job whose source ends: 256 for each byte to read, one for each pixel of the record at
hand, and one for the end. -/
def stepsLeft (s : State) : Nat := if jobRuns s then 256 * s.source.bytes.length + pixelsLeft s + 1 else 0

theorem pixelsLeft_le (s : State) : pixelsLeft s ≤ 255 := by
  unfold pixelsLeft
  split <;> omega

theorem stepsLeft_of_job {s : State} (job : jobRuns s = true) :
    stepsLeft s = 256 * s.source.bytes.length + pixelsLeft s + 1 := if_pos job

theorem stepsLeft_le (s : State) : stepsLeft s ≤ 256 * s.source.bytes.length + 256 := by
  have pixels := pixelsLeft_le s
  unfold stepsLeft
  split <;> omega

/-- A byte is worth more than all the pixels of a record. -/
theorem stepsLeft_lt_of_byte {s t : State} (job : jobRuns s = true)
    (byte : s.source.bytes.length = t.source.bytes.length + 1) : stepsLeft t < stepsLeft s := by
  have bound := stepsLeft_le t
  rw [stepsLeft_of_job job]
  omega

/-- While a source that ends gives bytes, they are those it lists. -/
theorem source_next_of_eof {src src' : Source} {r : Byte} (eof : src.rest = .eof) (h : src.next = some (r, src')) :
    src.bytes.length = src'.bytes.length + 1 ∧ src'.rest = .eof := by
  obtain ⟨bytes, rest⟩ := src
  cases eof
  cases bytes with
  | nil => cases h
  | cons b bs => cases h; exact ⟨rfl, rfl⟩

/-! ### Each step comes closer to the end -/

/-- The command is over, with DONE or with an error. -/
def Ended (t : State) : Prop := t.status.state = .idle ∧ (t.status.done = true ∨ t.status.error = true)

theorem runs_or_ended_dispatchHeader (r : Byte) (s : State) :
    jobRuns (dispatchHeader r s) = true ∨ Ended (dispatchHeader r s) := by
  unfold dispatchHeader
  split_ifs
  · exact .inl rfl
  · exact .inl rfl
  · exact .inr ⟨rfl, .inl rfl⟩
  · exact .inl rfl
  · exact .inl rfl

theorem jobRuns_afterLiteral (r : Byte) {s : State} (job : jobRuns s = true) : jobRuns (afterLiteral r s) = true := by
  unfold afterLiteral
  split
  · rfl
  · exact job

/-- What one step of a job does to the measure. -/
structure ComesCloser (s t : State) : Prop where
  fewer : stepsLeft t < stepsLeft s
  eof : t.source.rest = .eof
  ends : jobRuns t = true ∨ Ended t

/-- A step that takes a byte of a source that ends. -/
theorem comesCloser_byte {s t : State} {r : Byte} {src : Source} (job : jobRuns s = true)
    (eof : s.source.rest = .eof) (byte : s.source.next = some (r, src)) (given : t.source = src)
    (ends : jobRuns t = true ∨ Ended t) : ComesCloser s t := by
  obtain ⟨length, eof'⟩ := source_next_of_eof eof byte
  subst given
  exact ⟨stepsLeft_lt_of_byte job length, eof', ends⟩

/-- A step that writes a pixel of the record at hand. -/
theorem comesCloser_pixel {s t : State} (job : jobRuns s = true) (eof : s.source.rest = .eof)
    (source : t.source = s.source) (job' : jobRuns t = true) (pixel : pixelsLeft t < pixelsLeft s) :
    ComesCloser s t := by
  refine ⟨?_, by rw [source]; exact eof, .inl job'⟩
  rw [stepsLeft_of_job job, stepsLeft_of_job job', source]
  omega

theorem comesCloser_runPixel {s : State} (h : Inv s) (state : s.status.state = .run) (eof : s.source.rest = .eof) :
    ComesCloser s (runPixel s) := by
  have job : jobRuns s = true := by rw [jobRuns, state]
  have fits := (h.job job).scratch
  rw [ScratchFits, state] at fits
  obtain ⟨_, left, _⟩ := fits
  have before : pixelsLeft s = s.scratch.left.toNat := by rw [pixelsLeft, state]
  by_cases last : s.scratch.left = 1
  · have after : (runPixel s).status.state = .hdrA := if_pos last
    refine comesCloser_pixel job eof rfl (by rw [jobRuns, after]) ?_
    rw [before, pixelsLeft, after]
    exact left
  · have after : (runPixel s).status.state = .run := if_neg last
    refine comesCloser_pixel job eof rfl (by rw [jobRuns, after]) ?_
    rw [before, pixelsLeft, after]
    show (s.scratch.left - 1).toNat < s.scratch.left.toNat
    bv_omega

theorem comesCloser_absEmitPixel {s : State} (h : Inv s) (state : s.status.state = .absEmit)
    (eof : s.source.rest = .eof) : ComesCloser s (absEmitPixel s) := by
  have job : jobRuns s = true := by rw [jobRuns, state]
  have fits := (h.job job).scratch
  rw [ScratchFits, state] at fits
  obtain ⟨_, room⟩ := fits
  have before : pixelsLeft s = s.scratch.count.toNat - s.scratch.i.toNat := by rw [pixelsLeft, state]
  by_cases last : s.scratch.i + 1 = s.scratch.count
  · have after : (absEmitPixel s).status.state = .hdrA := if_pos last
    refine comesCloser_pixel job eof rfl (by rw [jobRuns, after]) ?_
    rw [before, pixelsLeft, after]
    exact Nat.sub_pos_of_lt room
  · have after : (absEmitPixel s).status.state = .absEmit := if_neg last
    refine comesCloser_pixel job eof rfl (by rw [jobRuns, after]) ?_
    rw [before, pixelsLeft, after]
    show s.scratch.count.toNat - (s.scratch.i + 1).toNat < s.scratch.count.toNat - s.scratch.i.toNat
    bv_omega

/-- Every step of a job whose source ends comes closer to the end. -/
theorem comesCloser_jobStep {s t : State} (h : Inv s) (job : jobRuns s = true) (eof : s.source.rest = .eof)
    (step : JobStep s t) : ComesCloser s t := by
  cases step with
  | error code =>
    refine ⟨?_, eof, .inr ⟨rfl, .inr rfl⟩⟩
    rw [stepsLeft_of_job job]
    exact Nat.succ_pos _
  | hdrA state byte => exact comesCloser_byte job eof byte rfl (.inl rfl)
  | @hdrB r src state byte =>
    have frame := (dispatchHeader_frame r (latchB r (afterSrcRead src s))).1
    exact comesCloser_byte job eof byte (by rw [frame]; rfl) (runs_or_ended_dispatchHeader r _)
  | deltaX state byte => exact comesCloser_byte job eof byte rfl (.inl rfl)
  | deltaY state byte => exact comesCloser_byte job eof byte rfl (.inl rfl)
  | @absRead r src state byte backed =>
    exact comesCloser_byte job eof byte (by rw [afterLiteral_frame]; rfl) (.inl (jobRuns_afterLiteral r job))
  | run state inside backed => exact comesCloser_runPixel h state eof
  | absEmit state inside backed => exact comesCloser_absEmitPixel h state eof

/-! ### A finite stream -/

/-- The command is over after at most `bound` more steps. -/
def EndsWithin (bound : Nat) (s : State) : Prop :=
  ∃ n t, n ≤ bound ∧ engineSteps n s = .next t ∧ Inv t ∧ Ended t

theorem EndsWithin.of_step {bound : Nat} {s t : State} (step : engineStep s = .next t) (h : EndsWithin bound t) :
    EndsWithin (bound + 1) s := by
  obtain ⟨n, u, within, steps, ended⟩ := h
  exact ⟨n + 1, u, Nat.succ_le_succ within, (engineSteps_succ_of_next step n).trans steps, ended⟩

theorem endsWithin_of_ended {s : State} (h : Inv s) (ended : Ended s) (bound : Nat) : EndsWithin bound s :=
  ⟨0, s, Nat.zero_le _, rfl, h, ended⟩

/-- A job whose source ends is over within its measure. -/
theorem endsWithin_job {s : State} (h : Inv s) (job : jobRuns s = true) (eof : s.source.rest = .eof) {bound : Nat}
    (within : stepsLeft s ≤ bound) : EndsWithin bound s := by
  induction bound generalizing s with
  | zero =>
    rw [stepsLeft_of_job job] at within
    exact absurd within (Nat.not_succ_le_zero _)
  | succ bound ih =>
    rcases progress_job h job with ⟨t, step⟩ | ⟨_, nothing, _⟩
    · have inv := inv_engineStep h step
      obtain ⟨fewer, eof', runs | ended⟩ := comesCloser_jobStep h job eof (jobStep_of_engineStep job step)
      · exact .of_step step (ih inv runs eof' (Nat.le_of_lt_succ (fewer.trans_le within)))
      · exact .of_step step (endsWithin_of_ended inv ended bound)
    · rw [nothing] at eof
      cases eof

/-- DECODE ends at once with ValidationError, or starts a job with all the bytes still to read. -/
theorem endsWithin_decode {s : State} (h : Inv s) (state : s.status.state = .exec) (cmd : s.scratch.cmd = 2)
    (eof : s.source.rest = .eof) : EndsWithin (256 * (s.source.bytes.length + 1)) s := by
  have step : engineStep s = exec .decode s := by
    rw [engineStep_exec state (h.execCommand state), cmd]
    rfl
  have bound : 256 * (s.source.bytes.length + 1) = 256 * s.source.bytes.length + 255 + 1 := by omega
  rw [bound]
  rcases exec_decode_cases s with e | e | ⟨legal, e⟩
  · exact .of_step (step.trans e) (endsWithin_of_ended (inv_validation_error h state) ⟨rfl, .inr rfl⟩ _)
  · exact .of_step (step.trans e)
      (endsWithin_of_ended (inv_error_after_validation h state (by decide)) ⟨rfl, .inr rfl⟩ _)
  · have first : stepsLeft (afterDecode s) = 256 * s.source.bytes.length + 1 := rfl
    exact .of_step (step.trans e) (endsWithin_job (inv_afterDecode h state cmd legal) rfl eof (by omega))

/-! ### An endless stream -/

/-- The source that offers the record `00 02 00 00` over and over, before it `bytes` (R181). -/
def deltaForever (bytes : List Byte) : Source := { bytes := bytes, rest := .cycle 0x00 [0x02, 0x00, 0x00] }

/-- The four states in which the engine reads the record `00 02 00 00` of a source that repeats it (R181). -/
inductive ReadsDeltaForever (s : State) : Prop
  | hdrA (state : s.status.state = .hdrA) (source : s.source = deltaForever [])
  | hdrB (state : s.status.state = .hdrB) (escape : s.scratch.a = 0)
      (source : s.source = deltaForever [0x02, 0x00, 0x00])
  | deltaX (state : s.status.state = .deltaX)
      (source : s.source = deltaForever [0x00, 0x00])
  | deltaY (state : s.status.state = .deltaY)
      (source : s.source = deltaForever [0x00])

theorem ReadsDeltaForever.job {s : State} (h : ReadsDeltaForever s) : jobRuns s = true := by
  cases h with
  | hdrA state | hdrB state | deltaX state | deltaY state => rw [jobRuns, state]

/-- Each of the four states leads to the next, the last to the first. -/
theorem ReadsDeltaForever.step {s : State} (h : ReadsDeltaForever s) :
    ∃ t, engineStep s = .next t ∧ ReadsDeltaForever t ∧ t.status.busy = s.status.busy := by
  cases h with
  | hdrA state source =>
    have byte : s.source.next = some (0x00, deltaForever [0x02, 0x00, 0x00]) := by
      rw [source]
      rfl
    have next := engineStep_hdrA state
    rw [srcRead_of_byte byte] at next
    exact ⟨_, next, .hdrB rfl rfl rfl, rfl⟩
  | hdrB state escape source =>
    have byte : s.source.next = some (0x02, deltaForever [0x00, 0x00]) := by
      rw [source]
      rfl
    have next := engineStep_hdrB_of_byte state byte
    rw [dispatchHeader_escape (s := latchB 0x02 (afterSrcRead _ s)) 0x02 escape] at next
    exact ⟨_, next, .deltaX rfl rfl, rfl⟩
  | deltaX state source =>
    have byte : s.source.next = some (0x00, deltaForever [0x00]) := by
      rw [source]
      rfl
    have next := engineStep_deltaX state
    rw [srcRead_of_byte byte] at next
    exact ⟨_, next, .deltaY rfl rfl, rfl⟩
  | deltaY state source =>
    have byte : s.source.next = some (0x00, deltaForever []) := by
      rw [source]
      rfl
    have next := engineStep_deltaY state
    rw [srcRead_of_byte byte] at next
    exact ⟨_, next, .hdrA rfl rfl, rfl⟩

theorem ReadsDeltaForever.steps {s : State} (h : ReadsDeltaForever s) (n : Nat) :
    ∃ t, engineSteps n s = .next t ∧ jobRuns t = true ∧ t.status.busy = s.status.busy := by
  induction n generalizing s with
  | zero => exact ⟨s, rfl, h.job, rfl⟩
  | succ n ih =>
    obtain ⟨t, step, forever, busy⟩ := h.step
    obtain ⟨u, steps, job, busy'⟩ := ih forever
    exact ⟨u, (engineSteps_succ_of_next step n).trans steps, job, busy'.trans busy⟩

/-- Settles O60: the measure for a stream that ends, the four states for R181's endless one, and the wait. -/
theorem decodeOfAFiniteStreamEnds : Obligations.DecodeOfAFiniteStreamEnds := by
  unfold Obligations.DecodeOfAFiniteStreamEnds
  refine ⟨fun s inv state cmd eof => ?finite, fun s inv state source n => ?endless, fun s nothing reading => ?waits⟩
  case finite =>
    obtain ⟨n, t, within, steps, inv', idle, ended⟩ := endsWithin_decode inv state cmd eof
    have notBusy : t.status.busy = false := Bool.eq_false_iff.mpr fun busy => inv'.busyState.mp busy idle
    exact ⟨n, t, within, steps, idle, notBusy, ended⟩
  case endless =>
    obtain ⟨t, steps, job, busy⟩ := ReadsDeltaForever.steps (.hdrA state source) n
    exact ⟨t, steps, job, busy.trans (inv.busyState.mpr (by rw [state]; decide))⟩
  case waits => exact engineStep_of_nothing ((sReady_iff s).mpr reading) (by rw [nothing]; rfl) (by rw [nothing])

end Sys2Proof.Machine
end

section
/-! 42_rle_decoder.md R180: the variables of the spec's function DecodeRLE, and the pixels that its `put` writes. -/

namespace Sys2Proof.Machine

/-! ### `put` for a list of values -/

/-- How many of `c` pixels from (x, y) to the right lie inside an image of width `w` (42_rle_decoder.md R160). -/
def pixelsThatFit (w c x : Nat) (y : Int) : Nat := if y < 0 then 0 else min c (w - x)

theorem pixelsThatFit_le (w c x : Nat) (y : Int) : pixelsThatFit w c x y ≤ c := by
  unfold pixelsThatFit
  split_ifs
  · exact Nat.zero_le c
  · exact min_le_left c _

theorem add_pixelsThatFit_le {w c x : Nat} {y : Int} (within : x ≤ w) : x + pixelsThatFit w c x y ≤ w := by
  unfold pixelsThatFit
  split_ifs <;> omega

/-- One pixel more fits when all before it do and there is room for it. -/
theorem pixelsThatFit_succ {w c x : Nat} {y : Int} :
    pixelsThatFit w (c + 1) x y =
      if pixelsThatFit w c x y = c ∧ ¬(w ≤ x + c ∨ y < 0) then c + 1 else pixelsThatFit w c x y := by
  unfold pixelsThatFit
  split_ifs <;> omega

/-- `put(v)` at a cursor inside the image (R180). -/
def putOne (w d : Nat) (v : Byte) (r : DecodeVars) : DecodeVars :=
  { r with
    plane := r.plane.set (pixelByte d w r.x r.y.toNat)
      (insertIndex (r.plane.getD (pixelByte d w r.x r.y.toNat) 0) (pixelSlot d w r.x r.y.toNat) d v)
    px := r.px + 1
    x := min (r.x + 1) w }

theorem putPixels_outside {w d : Nat} {r : DecodeVars} (outside : w ≤ r.x ∨ r.y < 0) (v : Byte) (vs : List Byte) :
    putPixels w d (v :: vs) r = (r, true) := if_pos outside

theorem putPixels_inside {w d : Nat} {r : DecodeVars} (inside : ¬(w ≤ r.x ∨ r.y < 0)) (v : Byte) (vs : List Byte) :
    putPixels w d (v :: vs) r = putPixels w d vs (putOne w d v r) := if_neg inside

theorem putPixels_append (w d : Nat) (vs us : List Byte) (r : DecodeVars) :
    putPixels w d (vs ++ us) r =
      if (putPixels w d vs r).2 then putPixels w d vs r else putPixels w d us (putPixels w d vs r).1 := by
  induction vs generalizing r with
  | nil => rfl
  | cons v vs ih =>
    rw [List.cons_append]
    by_cases outside : w ≤ r.x ∨ r.y < 0
    · rw [putPixels_outside outside, putPixels_outside outside, if_pos rfl]
    · rw [putPixels_inside outside, putPixels_inside outside, ih]

/-- What `put` on `c` values does to the variables, in terms of a state of the machine whose cursor and image they
hold. -/
structure PixelsPut (s : State) (c : Nat) (value : Nat → Byte) (r : DecodeVars) (out : DecodeVars × Bool) : Prop where
  vars : out.1 = { r with
    plane := out.1.plane
    x := r.x + pixelsThatFit s.imageWidth c r.x r.y
    px := r.px + pixelsThatFit s.imageWidth c r.x r.y }
  stopped : out.2 = true ↔ pixelsThatFit s.imageWidth c r.x r.y ≠ c
  length : out.1.plane.length = r.plane.length
  bytes : ∀ k, k < r.plane.length →
    out.1.plane.getD k 0 = paintedByte s (pixelsThatFit s.imageWidth c r.x r.y) value k

theorem getD_set {xs : List Byte} {j k : Nat} (v : Byte) (hk : k < xs.length) :
    (xs.set j v).getD k 0 = if k = j then v else xs.getD k 0 := by
  have hk' : k < (xs.set j v).length := by rw [List.length_set]; exact hk
  rw [List.getD_eq_getElem _ _ hk', List.getD_eq_getElem _ _ hk, List.getElem_set]
  simp only [eq_comm]

/-- The next value of a row that has written all its values so far. -/
theorem PixelsPut.one {s : State} {c : Nat} {value : Nat → Byte} {r r' : DecodeVars}
    (h : PixelsPut s c value r (r', false)) (hx : s.counters.curX.toNat = r.x) (hy : s.counters.curY.toInt = r.y) :
    PixelsPut s (c + 1) value r (putPixels s.imageWidth s.depth [value c] r') := by
  obtain ⟨vars, stopped, length, bytes⟩ := h
  have all : pixelsThatFit s.imageWidth c r.x r.y = c := by
    by_contra cut
    exact Bool.false_ne_true (stopped.mpr cut)
  rw [all] at vars bytes
  change r' = { r with plane := r'.plane, x := r.x + c, px := r.px + c } at vars
  have x' : r'.x = r.x + c := by rw [vars]
  have y' : r'.y = r.y := by rw [vars]
  have n' : r'.n = r.n := by rw [vars]
  have px' : r'.px = r.px + c := by rw [vars]
  by_cases outside : s.imageWidth ≤ r'.x ∨ r'.y < 0
  · rw [putPixels_outside outside]
    rw [x', y'] at outside
    have fit : pixelsThatFit s.imageWidth (c + 1) r.x r.y = c := by
      rw [pixelsThatFit_succ, if_neg fun inside => inside.2 outside, all]
    refine ⟨by rw [fit]; exact vars, ?_, length, by rw [fit]; exact bytes⟩
    rw [fit]
    exact iff_of_true rfl (Nat.succ_ne_self c).symm
  · rw [putPixels_inside outside, putPixels]
    rw [x', y'] at outside
    have fit : pixelsThatFit s.imageWidth (c + 1) r.x r.y = c + 1 := by
      rw [pixelsThatFit_succ, if_pos ⟨all, outside⟩]
    have edge : min (r.x + c + 1) s.imageWidth = r.x + (c + 1) := by omega
    constructor
    · rw [fit, putOne, x', y', edge, n', px']
      rfl
    · rw [fit]
      exact iff_of_false Bool.false_ne_true (not_not_intro rfl)
    · exact (List.length_set ..).trans length
    · intro k hk
      rw [fit, paintedByte_succ, hx, hy, ← bytes k hk, putOne, x', y', getD_set _ (by rw [length]; exact hk)]
      split_ifs with own
      · rw [own]
      · rfl

/-- `put` writes as `paintedByte` does, up to the first pixel outside the image. -/
theorem putPixels_range {s : State} {r : DecodeVars} (hx : s.counters.curX.toNat = r.x)
    (hy : s.counters.curY.toInt = r.y) (image : ∀ k, k < r.plane.length → s.planeRead k = r.plane.getD k 0)
    (value : Nat → Byte) (c : Nat) :
    PixelsPut s c value r (putPixels s.imageWidth s.depth ((List.range c).map value) r) := by
  induction c with
  | zero =>
    have fit : pixelsThatFit s.imageWidth 0 r.x r.y = 0 := Nat.le_zero.mp (pixelsThatFit_le _ _ _ _)
    refine ⟨by rw [fit]; rfl, ?_, rfl, fun k hk => by rw [fit]; exact (image k hk).symm⟩
    exact iff_of_false Bool.false_ne_true (not_not_intro fit)
  | succ c ih =>
    rw [List.range_succ, List.map_append, putPixels_append, List.map_singleton]
    rcases eq : putPixels s.imageWidth s.depth ((List.range c).map value) r with ⟨r', stop⟩
    rw [eq] at ih
    cases stop with
    | false => exact ih.one hx hy
    | true =>
      obtain ⟨vars, stopped, length, bytes⟩ := ih
      have cut := stopped.mp rfl
      have less := pixelsThatFit_le s.imageWidth c r.x r.y
      have fit : pixelsThatFit s.imageWidth (c + 1) r.x r.y = pixelsThatFit s.imageWidth c r.x r.y := by
        rw [pixelsThatFit_succ, if_neg fun inside => cut inside.1]
      refine ⟨by rw [fit]; exact vars, ?_, length, by rw [fit]; exact bytes⟩
      rw [fit]
      exact iff_of_true rfl (by omega)

/-! ### The records that write pixels, whether they fit or not -/

/-- What a run of `c` pixels in a record of `length` bytes leaves: the pixels that fit, then HDR_A or BoundsError. -/
structure RunWritten (s : State) (length c : Nat) (value : Nat → Byte) (t : State) : Prop where
  planeLen : t.planeLen = s.planeLen
  counters : t.counters = { s.counters with
    curX := s.counters.curX +
      BitVec.ofNat 32 (pixelsThatFit s.imageWidth c s.counters.curX.toNat s.counters.curY.toInt)
    bytesConsumed := s.counters.bytesConsumed + BitVec.ofNat 32 length
    pixelsWritten := s.counters.pixelsWritten +
      BitVec.ofNat 32 (pixelsThatFit s.imageWidth c s.counters.curX.toNat s.counters.curY.toInt) }
  whole : pixelsThatFit s.imageWidth c s.counters.curX.toNat s.counters.curY.toInt = c →
    t.status = { s.status with state := .hdrA }
  cut : pixelsThatFit s.imageWidth c s.counters.curX.toNat s.counters.curY.toInt ≠ c →
    t.status = Status.raised .bounds s.status
  bytes : ∀ k, t.planeRead k =
    paintedByte s (pixelsThatFit s.imageWidth c s.counters.curX.toNat s.counters.curY.toInt) value k

/-- The three places of a run: inside its row, past the end of its row, below row 0. -/
theorem pixelsThatFit_cases (w c x : Nat) (y : Int) :
    (0 ≤ y ∧ x + c ≤ w ∧ pixelsThatFit w c x y = c) ∨
    (0 ≤ y ∧ w < x + c ∧ pixelsThatFit w c x y = w - x) ∨
    (y < 0 ∧ pixelsThatFit w c x y = 0) := by
  unfold pixelsThatFit
  split_ifs <;> omega

section
variable {s : State} (legal : LegalConfig s.regs s.capacity) (cursor : CursorInRange s)
include legal cursor

theorem runWritten_encodedRun {a : Byte} (ha : a ≠ 0) (b : Byte) :
    ∃ t, exec (.encodedRun a b) s = .next t ∧ RunWritten s 2 a.toNat (patternIndex b s.depth) t := by
  obtain ⟨within, _, above⟩ := cursor
  have positive : 0 < a.toNat := by bv_omega
  obtain ⟨overrun, below⟩ := encodedRunOverrunRaisesBoundsError a b s ha legal within
  rcases pixelsThatFit_cases s.imageWidth a.toNat s.counters.curX.toNat s.counters.curY.toInt with
    ⟨hy, row, fit⟩ | ⟨hy, past, fit⟩ | ⟨hy, fit⟩
  · obtain ⟨t, run, frame, _, _, bytes, _⟩ := encodedRunWritesItsPixels a b s ha legal hy above row
    refine ⟨t, run, by rw [frame], by rw [frame, fit]; rfl, fun _ => by rw [frame], fun cut => absurd fit cut, ?_⟩
    rw [fit]
    exact bytes
  · obtain ⟨t, run, frame, _, _, bytes, _⟩ := overrun hy above past
    have edge : s.counters.curX + BitVec.ofNat 32 (s.imageWidth - s.counters.curX.toNat) = s.regs.width := by
      have within' : s.counters.curX.toNat ≤ s.regs.width.toNat := within
      show s.counters.curX + BitVec.ofNat 32 (s.regs.width.toNat - s.counters.curX.toNat) = s.regs.width
      bv_omega
    refine ⟨t, run, by rw [frame], by rw [frame, fit, edge]; rfl, fun whole => ?_, fun _ => by rw [frame]; rfl, ?_⟩
    · omega
    · rw [fit]
      exact bytes
  · refine ⟨_, below hy, rfl, ?_, fun whole => ?_, fun _ => rfl, ?_⟩
    · rw [fit, BitVec.add_zero, BitVec.add_zero]
      rfl
    · omega
    · rw [fit]
      exact fun _ => rfl

theorem runWritten_absolute {b : Byte} {literal : List Byte} (hb : 3 ≤ b.toNat)
    (hlen : literal.length = paddedLength b.toNat s.depth) :
    ∃ t, exec (.absolute b literal) s = .next t ∧
      RunWritten s (2 + literal.length) b.toNat (literalIndex literal s.depth) t := by
  obtain ⟨within, _, above⟩ := cursor
  have overruns := absoluteRunOverrunRaisesBoundsError b literal s hb hlen legal within
  rcases pixelsThatFit_cases s.imageWidth b.toNat s.counters.curX.toNat s.counters.curY.toInt with
    ⟨hy, row, fit⟩ | ⟨hy, past, fit⟩ | ⟨hy, fit⟩
  · obtain ⟨t, run, frame, _, _, _, bytes, _⟩ := absoluteRunWritesItsPixels b literal s hb hlen legal hy above row
    refine ⟨t, run, by rw [frame], by rw [frame, fit], fun _ => by rw [frame], fun cut => absurd fit cut, ?_⟩
    rw [fit]
    exact bytes
  · obtain ⟨t, m, run, room, frame, _, _, _, bytes, _⟩ := overruns (.inr ⟨hy, above, past⟩)
    rw [if_neg (Int.not_lt.mpr hy), ← fit] at room
    subst room
    exact ⟨t, run, by rw [frame], by rw [frame], fun whole => by omega, fun _ => by rw [frame]; rfl, bytes⟩
  · obtain ⟨t, m, run, room, frame, _, _, _, bytes, _⟩ := overruns (.inl hy)
    rw [if_pos hy, ← fit] at room
    subst room
    exact ⟨t, run, by rw [frame], by rw [frame], fun whole => by omega, fun _ => by rw [frame]; rfl, bytes⟩

end

end Sys2Proof.Machine
end

section
/-! 42_rle_decoder.md R180: a whole decode, step by step, is the spec's function DecodeRLE. -/

namespace Sys2Proof.Machine

/-! ### The variables of DecodeRLE in the block's state -/

/-- The cursor and the counters that hold these variables, each modulo 2^32 (R180; PIXELS_WRITTEN: log 14). -/
def varsCounters (r : DecodeVars) : Counters :=
  { curX := BitVec.ofNat 32 r.x, curY := BitVec.ofInt 32 r.y, bytesConsumed := BitVec.ofNat 32 r.n
    pixelsWritten := BitVec.ofNat 32 r.px }

/-- In `s`, a later state of the job that DECODE starts in `s₀` on the stream `bytes`, the image, the cursor, the
counters and the source hold the variables `r`. -/
structure HoldsVars (s₀ : State) (bytes : List Byte) (r : DecodeVars) (s : State) : Prop where
  regs : s.regs = s₀.regs
  capacity : s.capacity = s₀.capacity
  planeLen : s.planeLen.toNat = imageBytes s₀.regs
  length : r.plane.length = imageBytes s₀.regs
  image : ∀ k, k < imageBytes s₀.regs → s.planeRead k = r.plane.getD k 0
  above : ∀ k, imageBytes s₀.regs ≤ k → s.planeRead k = s₀.planeRead k
  counters : s.counters = varsCounters r
  source : s.source = { bytes := bytes.drop r.n, rest := .eof }

/-- A job between two records, with its cursor in the range of the registers (R161). -/
structure AtRecord (s₀ : State) (bytes : List Byte) (r : DecodeVars) (s : State) : Prop
    extends HoldsVars s₀ bytes r s where
  inv : Inv s
  status : s.status = { s₀.status with state := .hdrA }
  x : r.x ≤ s₀.imageWidth
  y : -1 ≤ r.y
  y' : r.y < s₀.imageHeight

/-- From `s` the engine's single steps lead to the outcome `out` of DecodeRLE. -/
def DecodeEnds (s₀ : State) (bytes : List Byte) (out : DecodeStop × DecodeVars) (s : State) : Prop :=
  ∃ n t, engineSteps n s = .next t ∧ t.status = out.1.status s₀.status ∧ HoldsVars s₀ bytes out.2 t

section
variable {s₀ s t : State} {bytes : List Byte} {r : DecodeVars} {out : DecodeStop × DecodeVars}

theorem DecodeEnds.of_steps {n : Nat} (steps : engineSteps n s = .next t) (h : DecodeEnds s₀ bytes out t) :
    DecodeEnds s₀ bytes out s := by
  obtain ⟨m, u, others, status, vars⟩ := h
  exact ⟨n + m, u, (engineSteps_add_of_next steps m).trans others, status, vars⟩

theorem decodeEnds_of_last {n : Nat} (steps : engineSteps n s = .next t) (status : t.status = out.1.status s₀.status)
    (vars : HoldsVars s₀ bytes out.2 t) : DecodeEnds s₀ bytes out s := ⟨n, t, steps, status, vars⟩

section
variable (h : HoldsVars s₀ bytes r s)
include h

theorem HoldsVars.depth : s.depth = s₀.depth := congrArg (·.depth.toNat) h.regs
theorem HoldsVars.imageWidth : s.imageWidth = s₀.imageWidth := congrArg (·.width.toNat) h.regs
theorem HoldsVars.imageHeight : s.imageHeight = s₀.imageHeight := congrArg (·.height.toNat) h.regs
theorem HoldsVars.sourceBytes : s.source.bytes = bytes.drop r.n := congrArg Source.bytes h.source

/-- Once the engine has taken `taken`, the source offers the bytes behind them. -/
theorem HoldsVars.drop_add {taken rest : List Byte} (given : s.source.bytes = taken ++ rest) :
    bytes.drop (r.n + taken.length) = rest := by
  rw [← List.drop_drop, ← h.sourceBytes, given, List.drop_left]

end

section
variable (h : AtRecord s₀ bytes r s)
include h

theorem AtRecord.state : s.status.state = .hdrA := by rw [h.status]

theorem AtRecord.jobInv : JobInv s := h.inv.job (by rw [jobRuns, h.state])

theorem AtRecord.legal : LegalConfig s.regs s.capacity := h.jobInv.config.1

theorem AtRecord.curX : s.counters.curX.toNat = r.x := by
  rw [h.counters]
  exact Nat.mod_eq_of_lt (h.x.trans_lt (imageWidth_lt s₀))

theorem AtRecord.curY : s.counters.curY.toInt = r.y := by
  have bound := h.y
  have bound' := h.y'
  have height : s₀.imageHeight < 2 ^ 31 := by
    obtain ⟨_, _, _, _, _, ⟨_, top⟩, _⟩ := h.legal
    rw [← h.imageHeight]
    show s.regs.height.toNat < 2 ^ 31
    omega
  rw [h.counters]
  exact BitVec.toInt_ofInt_eq_self (by decide) (by omega) (by omega)

/-- While a command runs, neither DONE nor ERROR is set, so each of its ends sets STATUS as DecodeRLE does. -/
theorem AtRecord.fresh : s₀.status.done = false ∧ s₀.status.error = false ∧ s₀.status.errCode = .noError := by
  have busy : s.status.busy = true := h.inv.busyState.mpr (by rw [h.state]; decide)
  obtain ⟨done, error⟩ := h.inv.busyClear busy
  have code : s.status.errCode = .noError := by
    by_contra code
    exact Bool.false_ne_true (error.symm.trans (h.inv.errorCode.mpr code))
  rw [h.status] at done error code
  exact ⟨done, error, code⟩

theorem AtRecord.raised_truncation (state : EngineState) :
    Status.raised .truncation { s.status with state := state } = DecodeStop.truncation.status s₀.status := by
  obtain ⟨done, _, _⟩ := h.fresh
  simp only [h.status, Status.raised, DecodeStop.status, done]

theorem AtRecord.raised_bounds : Status.raised .bounds s.status = DecodeStop.bounds.status s₀.status := by
  obtain ⟨done, _, _⟩ := h.fresh
  simp only [h.status, Status.raised, DecodeStop.status, done]

theorem AtRecord.finished : Status.finished s.status = DecodeStop.done.status s₀.status := by
  obtain ⟨_, error, code⟩ := h.fresh
  simp only [h.status, Status.finished, DecodeStop.status, error, code]

end

/-! ### One record -/

/-- What a record makes of the variables, given what it makes of the image, the cursor and the counters. -/
theorem HoldsVars.record {i : Instr} {rest : List Byte} {r' : DecodeVars} (h : HoldsVars s₀ bytes r s)
    (legal : LegalConfig s.regs s.capacity) (given : s.source.bytes = recordBytes i ++ rest)
    (run : exec i (dropTo rest s) = .next t) (noGet : i ≠ .getIndex) (planeLen : t.planeLen = s.planeLen)
    (read : r'.n = r.n + (recordBytes i).length) (counters : t.counters = varsCounters r')
    (length : r'.plane.length = r.plane.length)
    (image : ∀ k, k < r.plane.length → t.planeRead k = r'.plane.getD k 0) : HoldsVars s₀ bytes r' t := by
  have frame := recordFrame_exec run noGet
  exact {
    regs := frame.allRegs.trans h.regs
    capacity := frame.capacity.trans h.capacity
    planeLen := planeLen ▸ h.planeLen
    length := length.trans h.length
    image := fun k hk => image k (by rw [h.length]; exact hk)
    above := fun k hk => (frame.above legal k (by rw [← h.regs] at hk; exact hk)).trans (h.above k hk)
    counters := counters
    source := by
      rw [frame.source, read, h.drop_add given]
      show ({ s.source with bytes := rest } : Source) = _
      rw [h.source] }

/-- A record that writes no pixel. -/
theorem HoldsVars.record_without_pixels {i : Instr} {rest : List Byte} {r' : DecodeVars} (h : HoldsVars s₀ bytes r s)
    (legal : LegalConfig s.regs s.capacity) (given : s.source.bytes = recordBytes i ++ rest)
    (run : exec i (dropTo rest s) = .next t) (noGet : i ≠ .getIndex) (planeLen : t.planeLen = s.planeLen)
    (read : r'.n = r.n + (recordBytes i).length) (counters : t.counters = varsCounters r')
    (plane : t.plane = s.plane) (samePlane : r'.plane = r.plane) : HoldsVars s₀ bytes r' t := by
  refine h.record legal given run noGet planeLen read counters (by rw [samePlane]) fun k hk => ?_
  have draw : t.draw = s.draw := (recordFrame_exec run noGet).draw
  rw [samePlane, ← h.image k (by rw [← h.length]; exact hk), State.planeRead, plane, draw]
  rfl

/-! ### The loop -/

/-- How the loop goes on with the bytes `rest` once `put` has ended with `out` (R180). -/
def loopAfterPut (w d fuel : Nat) (rest : List Byte) (out : DecodeVars × Bool) : DecodeStop × DecodeVars :=
  if out.2 then (.bounds, out.1) else decodeRLELoop w d fuel rest out.1

section
variable (w d fuel : Nat) (rest : List Byte) (r : DecodeVars)

theorem decodeRLELoop_encodedRun {a : Byte} (ha : a ≠ 0) (b : Byte) :
    decodeRLELoop w d (fuel + 1) (a :: b :: rest) r =
      loopAfterPut w d fuel rest
        (putPixels w d ((List.range a.toNat).map (patternIndex b d)) { r with n := r.n + 2 }) := if_pos ha

theorem decodeRLELoop_eol :
    decodeRLELoop w d (fuel + 1) (0 :: 0 :: rest) r =
      decodeRLELoop w d fuel rest { r with n := r.n + 2, x := 0, y := max (r.y - 1) (-1) } := rfl

theorem decodeRLELoop_eob : decodeRLELoop w d (fuel + 1) (0 :: 1 :: rest) r = (.done, { r with n := r.n + 2 }) := rfl

theorem decodeRLELoop_delta (dx dy : Byte) :
    decodeRLELoop w d (fuel + 1) (0 :: 2 :: dx :: dy :: rest) r =
      decodeRLELoop w d fuel rest
        { r with n := r.n + 4, x := min (r.x + dx.toNat) w, y := max (r.y - dy.toNat) (-1) } := rfl

/-- An absolute record that the stream holds whole. -/
theorem decodeRLELoop_absolute {b : Byte} {literal : List Byte} (hb : 3 ≤ b.toNat)
    (hlen : literal.length = paddedLength b.toNat d) (inside : ∀ i, i < b.toNat → i / (8 / d) < literal.length) :
    decodeRLELoop w d (fuel + 1) (0 :: b :: (literal ++ rest)) r =
      loopAfterPut w d fuel rest
        (putPixels w d ((List.range b.toNat).map (literalIndex literal d))
          { r with n := r.n + (2 + literal.length) }) := by
  obtain ⟨h0, h1, h2⟩ := ne_selector_of_three_le hb
  have values :
      ((List.range b.toNat).map fun i =>
        extractIndex ((literal ++ rest).getD (i / (8 / d)) 0) (i % (8 / d)) d) =
      (List.range b.toNat).map (literalIndex literal d) := by
    refine List.map_congr_left fun i hi => ?_
    rw [literalIndex, List.getD_append _ _ _ _ (inside i (List.mem_range.mp hi))]
  have whole : ¬(literal ++ rest).length < paddedLength b.toNat d := by
    rw [List.length_append, hlen]
    omega
  rw [decodeRLELoop.eq_def]
  dsimp only
  rw [if_neg (not_not_intro rfl), if_neg h0, if_neg h1, if_neg h2, if_neg whole, values, ← hlen, List.drop_left,
    Nat.add_assoc]
  rfl

/-- An absolute record cut by the end of the stream. -/
theorem decodeRLELoop_absolute_cut {b : Byte} (hb : 3 ≤ b.toNat) (cut : rest.length < paddedLength b.toNat d) :
    decodeRLELoop w d (fuel + 1) (0 :: b :: rest) r = (.truncation, { r with n := r.n + 2 + rest.length }) := by
  obtain ⟨h0, h1, h2⟩ := ne_selector_of_three_le hb
  rw [decodeRLELoop.eq_def]
  dsimp only
  rw [if_neg (not_not_intro rfl), if_neg h0, if_neg h1, if_neg h2, if_pos cut]

end

/-- What the loop of DecodeRLE does with this fuel, the engine does. -/
def LoopEnds (s₀ : State) (bytes : List Byte) (fuel : Nat) : Prop :=
  ∀ r s rest, AtRecord s₀ bytes r s → s.source.bytes = rest → rest.length < fuel →
    DecodeEnds s₀ bytes (decodeRLELoop s₀.imageWidth s₀.depth fuel rest r) s

section
variable {n fuel : Nat} {i : Instr} {rest : List Byte} (h : AtRecord s₀ bytes r s)
  (given : s.source.bytes = recordBytes i ++ rest) (steps : engineSteps n s = .next t)
  (run : exec i (dropTo rest s) = .next t) (noGet : i ≠ .getIndex)
include h steps run noGet

/-- After a record that leads back to HDR_A the loop goes on with the bytes behind it. -/
theorem decodeEnds_of_record {r' : DecodeVars} (ends : LoopEnds s₀ bytes fuel) (short : rest.length < fuel)
    (vars : HoldsVars s₀ bytes r' t) (status : t.status = { s.status with state := .hdrA })
    (x : r'.x ≤ s₀.imageWidth) (y : -1 ≤ r'.y) (y' : r'.y < s₀.imageHeight) :
    DecodeEnds s₀ bytes (decodeRLELoop s₀.imageWidth s₀.depth fuel rest r') s := by
  have source : t.source.bytes = rest := congrArg Source.bytes (recordFrame_exec run noGet).source
  exact .of_steps steps
    (ends r' t rest ⟨vars, inv_engineSteps h.inv steps, by rw [status, h.status], x, y, y'⟩ source short)

include given

/-- A record that writes pixels: the loop goes on when all of them fit, and ends with BoundsError when not. -/
theorem decodeEnds_of_run {c : Nat} {value : Nat → Byte} {out : DecodeVars × Bool} (ends : LoopEnds s₀ bytes fuel)
    (short : rest.length < fuel) (written : RunWritten (dropTo rest s) (recordBytes i).length c value t)
    (put : putPixels s₀.imageWidth s₀.depth ((List.range c).map value)
      { r with n := r.n + (recordBytes i).length } = out) :
    DecodeEnds s₀ bytes (loopAfterPut s₀.imageWidth s₀.depth fuel rest out) s := by
  have hx : (dropTo rest s).counters.curX.toNat = r.x := h.curX
  have hy : (dropTo rest s).counters.curY.toInt = r.y := h.curY
  obtain ⟨planeLen, counters, whole, cut, painted⟩ := written
  have pixels := putPixels_range (s := dropTo rest s) (r := { r with n := r.n + (recordBytes i).length }) hx hy
    (fun k hk => h.image k (by rw [← h.length]; exact hk)) value c
  have width : (dropTo rest s).imageWidth = s₀.imageWidth := h.imageWidth
  have depth : (dropTo rest s).depth = s₀.depth := h.depth
  rw [width, depth, put] at pixels
  obtain ⟨vars, stopped, length, bytes'⟩ := pixels
  rw [width] at vars stopped bytes'
  rw [width, hx, hy] at counters whole cut painted
  have room := add_pixelsThatFit_le (c := c) (y := r.y) h.x
  have x' : out.1.x = r.x + pixelsThatFit s₀.imageWidth c r.x r.y := by rw [vars]
  have y' : out.1.y = r.y := by rw [vars]
  have holds : HoldsVars s₀ bytes out.1 t := by
    refine h.toHoldsVars.record h.legal given run noGet planeLen (by rw [vars]) ?_ length fun k hk => ?_
    · have before : (dropTo rest s).counters = varsCounters r := h.counters
      rw [counters, before, vars]
      simp only [varsCounters, BitVec.ofNat_add]
    · rw [painted, bytes' k hk]
  rw [loopAfterPut]
  by_cases all : pixelsThatFit s₀.imageWidth c r.x r.y = c
  · rw [if_neg fun stop => stopped.mp stop all]
    exact decodeEnds_of_record h steps run noGet ends short holds (whole all) (x' ▸ room) (y' ▸ h.y) (y' ▸ h.y')
  · rw [if_pos (stopped.mpr all)]
    exact decodeEnds_of_last steps ((cut all).trans h.raised_bounds) holds

end

section
variable {fuel : Nat} {rest : List Byte} (h : AtRecord s₀ bytes r s) (ends : LoopEnds s₀ bytes fuel)
include h ends

theorem decodeEnds_encodedRun {a b : Byte} (ha : a ≠ 0) (given : s.source.bytes = a :: b :: rest)
    (short : rest.length < fuel) :
    DecodeEnds s₀ bytes (decodeRLELoop s₀.imageWidth s₀.depth (fuel + 1) (a :: b :: rest) r) s := by
  obtain ⟨n, t, _, steps, run⟩ := recordSteps_encodedRun h.inv h.state ha given
  obtain ⟨u, run', written⟩ := runWritten_encodedRun (s := dropTo rest s) h.legal h.jobInv.cursor ha b
  cases run.symm.trans run'
  have depth : (dropTo rest s).depth = s₀.depth := h.depth
  rw [depth] at written
  rw [decodeRLELoop_encodedRun _ _ _ _ _ ha]
  exact decodeEnds_of_run h given steps run (by rintro ⟨⟩) ends short written rfl

theorem decodeEnds_absolute {b : Byte} {literal : List Byte} (hb : 3 ≤ b.toNat)
    (hlen : literal.length = paddedLength b.toNat s₀.depth) (given : s.source.bytes = 0 :: b :: (literal ++ rest))
    (short : rest.length < fuel) :
    DecodeEnds s₀ bytes (decodeRLELoop s₀.imageWidth s₀.depth (fuel + 1) (0 :: b :: (literal ++ rest)) r) s := by
  have depth : s.depth = s₀.depth := h.depth
  have depth' : (dropTo rest s).depth = s₀.depth := h.depth
  have inside : ∀ i, i < b.toNat → i / (8 / s₀.depth) < literal.length := fun i hi => by
    rw [hlen, ← depth]
    exact literal_index_lt h.legal hi
  have size : (recordBytes (.absolute b literal)).length = 2 + literal.length := Nat.add_comm literal.length 2
  obtain ⟨n, t, _, steps, run⟩ := recordSteps_absolute h.inv h.state hb (depth ▸ hlen) given
  obtain ⟨u, run', written⟩ :=
    runWritten_absolute (s := dropTo rest s) h.legal h.jobInv.cursor hb (depth' ▸ hlen)
  cases run.symm.trans run'
  rw [decodeRLELoop_absolute _ _ _ _ _ hb hlen inside, ← size]
  rw [depth', ← size] at written
  exact decodeEnds_of_run h given steps run (by rintro ⟨⟩) ends short written rfl

theorem decodeEnds_eol (given : s.source.bytes = 0 :: 0 :: rest) (short : rest.length < fuel) :
    DecodeEnds s₀ bytes (decodeRLELoop s₀.imageWidth s₀.depth (fuel + 1) (0 :: 0 :: rest) r) s := by
  obtain ⟨n, t, _, steps, run⟩ := recordSteps_eol h.state given
  have result := run
  rw [eolMovesToTheNextScanline] at result
  cases result
  rw [decodeRLELoop_eol]
  have vars := h.toHoldsVars.record_without_pixels (r' := { r with n := r.n + 2, x := 0, y := max (r.y - 1) (-1) })
    h.legal given run (by rintro ⟨⟩) rfl rfl ?counters rfl rfl
  case counters =>
    show ({ s.counters with curX := _, curY := BitVec.ofInt 32 (max (s.counters.curY.toInt - 1) (-1))
                            bytesConsumed := s.counters.bytesConsumed + 2 } : Counters) = _
    rw [h.curY, h.counters]
    simp only [varsCounters, BitVec.ofNat_add]
    rfl
  exact decodeEnds_of_record h steps run (by rintro ⟨⟩) ends short vars rfl (Nat.zero_le _) (le_max_right _ _)
    (max_lt ((Int.sub_one_lt_of_le le_rfl).trans h.y') (h.y.trans_lt h.y'))

theorem decodeEnds_delta {dx dy : Byte} (given : s.source.bytes = 0 :: 2 :: dx :: dy :: rest)
    (short : rest.length < fuel) :
    DecodeEnds s₀ bytes (decodeRLELoop s₀.imageWidth s₀.depth (fuel + 1) (0 :: 2 :: dx :: dy :: rest) r) s := by
  obtain ⟨n, t, _, steps, run⟩ := recordSteps_delta h.state given
  have result := run
  rw [deltaMovesTheCursor] at result
  cases result
  rw [decodeRLELoop_delta]
  have vars := h.toHoldsVars.record_without_pixels
    (r' := { r with n := r.n + 4, x := min (r.x + dx.toNat) s₀.imageWidth, y := max (r.y - dy.toNat) (-1) })
    h.legal given run (by rintro ⟨⟩) rfl rfl ?counters rfl rfl
  case counters =>
    show ({ s.counters with curX := BitVec.ofNat 32 (min (s.counters.curX.toNat + dx.toNat) s.imageWidth)
                            curY := BitVec.ofInt 32 (max (s.counters.curY.toInt - dy.toNat) (-1))
                            bytesConsumed := s.counters.bytesConsumed + 4 } : Counters) = _
    rw [h.curX, h.curY, h.imageWidth, h.counters]
    simp only [varsCounters, BitVec.ofNat_add]
    rfl
  have top := h.y'
  exact decodeEnds_of_record h steps run (by rintro ⟨⟩) ends short vars rfl (min_le_right _ _) (le_max_right _ _)
    (max_lt (by omega) (h.y.trans_lt top))

end

theorem decodeEnds_eob {rest : List Byte} (h : AtRecord s₀ bytes r s) (given : s.source.bytes = 0 :: 1 :: rest) :
    DecodeEnds s₀ bytes (.done, { r with n := r.n + 2 }) s := by
  obtain ⟨n, t, _, steps, run⟩ := recordSteps_eob h.state given
  have result := run
  rw [eobEndsTheDecode] at result
  cases result
  refine decodeEnds_of_last steps h.finished (h.toHoldsVars.record_without_pixels h.legal given run
    (by rintro ⟨⟩) rfl rfl ?counters rfl rfl)
  show ({ s.counters with bytesConsumed := s.counters.bytesConsumed + 2 } : Counters) = _
  rw [h.counters]
  simp only [varsCounters, BitVec.ofNat_add]
  rfl

/-! ### A stream that ends within a record -/

/-- The engine has read all the bytes listed in `s`, and in `t` it waits for one more. -/
structure ReadsPastTheEnd (s t : State) : Prop where
  frame : t = { s with
    source := { s.source with bytes := [] }
    counters := { s.counters with
      bytesConsumed := s.counters.bytesConsumed + BitVec.ofNat 32 s.source.bytes.length }
    status := { s.status with state := t.status.state }, scratch := t.scratch, litBuf := t.litBuf }
  ready : t.sReady = true

theorem decodeEnds_truncation {n : Nat} (h : AtRecord s₀ bytes r s) (steps : engineSteps n s = .next t)
    (past : ReadsPastTheEnd s t) :
    DecodeEnds s₀ bytes (.truncation, { r with n := r.n + s.source.bytes.length }) s := by
  obtain ⟨frame, ready⟩ := past
  have source : t.source = { bytes := [], rest := .eof } := by
    rw [frame, h.source]
  have last := engineSteps_add_of_next steps 1
  rw [engineSteps_one, engineStep_of_only_eof ready source] at last
  have read (k : Nat) : (raiseError .truncation t).planeRead k = s.planeRead k := by
    rw [frame]
    rfl
  refine decodeEnds_of_last last ?status {
    regs := ?regs, capacity := ?capacity, planeLen := ?planeLen, length := h.length
    image := fun k hk => (read k).trans (h.image k hk), above := fun k hk => (read k).trans (h.above k hk)
    counters := ?counters, source := source.trans ?_ }
  case status => rw [raiseError_status, frame, h.raised_truncation]
  case regs => rw [raiseError_regs, frame, h.regs]
  case capacity => rw [raiseError_capacity, frame, h.capacity]
  case planeLen => rw [raiseError_planeLen, frame, h.planeLen]
  case counters =>
    rw [raiseError_counters, frame, h.counters]
    simp only [varsCounters, BitVec.ofNat_add]
  rw [h.toHoldsVars.drop_add (List.append_nil _).symm]

theorem decodeEnds_nil (h : AtRecord s₀ bytes r s) (given : s.source.bytes = []) :
    DecodeEnds s₀ bytes (.truncation, r) s := by
  have ends := decodeEnds_truncation (n := 0) h rfl {
    frame := by
      rw [given, List.length_nil, BitVec.add_zero]
      exact (dropTo_self given).symm
    ready := by rw [State.sReady, h.state] }
  rw [given] at ends
  exact ends

theorem decodeEnds_one {a : Byte} (h : AtRecord s₀ bytes r s) (given : s.source.bytes = [a]) :
    DecodeEnds s₀ bytes (.truncation, { r with n := r.n + 1 }) s := by
  have first : engineSteps 1 s = .next (latchA a (afterSrcRead { s.source with bytes := [] } s)) := by
    rw [engineSteps_one, engineStep_hdrA h.state, srcRead_of_byte (source_next_of_bytes given)]
  have ends := decodeEnds_truncation h first { frame := by rw [given]; rfl, ready := rfl }
  rw [given] at ends
  exact ends

/-- A header `00 02` whose offsets the stream cuts off. -/
theorem decodeEnds_delta_cut {rest : List Byte} (h : AtRecord s₀ bytes r s)
    (given : s.source.bytes = 0 :: 2 :: rest) (cut : rest.length < 2) :
    DecodeEnds s₀ bytes (.truncation, { r with n := r.n + 2 + rest.length }) s := by
  have header := engineSteps_header h.state given
  suffices past : ∃ n t, engineSteps n s = .next t ∧ ReadsPastTheEnd s t by
    obtain ⟨n, t, steps, past⟩ := past
    have ends := decodeEnds_truncation h steps past
    rw [given, List.length_cons, List.length_cons] at ends
    rw [Nat.add_assoc, Nat.add_comm 2]
    exact ends
  match rest with
  | [] =>
    refine ⟨2, _, header, ?_, rfl⟩
    rw [given, readHeader_eq]
    rfl
  | [dx] =>
    have offset : engineStep (dispatchHeader 2 (readHeader 0 2 (dropTo [dx] s))) =
        .next (latchDx dx (countByte (enterDelta (readHeader 0 2 (dropTo [] s))))) := by
      rw [engineStep_deltaX rfl, srcRead_of_byte (source_next_of_bytes rfl)]
      rfl
    have steps := engineSteps_add_of_next header 1
    rw [engineSteps_one, offset] at steps
    have three : BitVec.ofNat 32 [0, 2, dx].length = 2#32 + 1#32 := rfl
    refine ⟨2 + 1, _, steps, ?_, rfl⟩
    rw [given, three, ← BitVec.add_assoc, readHeader_eq]
    rfl
  | _ :: _ :: _ => exact absurd cut (by simp)

/-- The header of an absolute run whose literal bytes the stream cuts off. -/
theorem decodeEnds_absolute_cut {b : Byte} {rest : List Byte} (h : AtRecord s₀ bytes r s) (hb : 3 ≤ b.toNat)
    (given : s.source.bytes = 0 :: b :: rest) (cut : rest.length < paddedLength b.toNat s₀.depth) :
    DecodeEnds s₀ bytes (.truncation, { r with n := r.n + 2 + rest.length }) s := by
  have header := engineSteps_header h.state given
  rw [dispatchHeader_absolute (s := readHeader 0 b (dropTo rest s)) rfl hb] at header
  obtain ⟨_, ⟨legal, _⟩, _, _, _, _, need, _⟩ := (inv_engineSteps h.inv header).job rfl
  have depth : (enterAbsolute b (readHeader 0 b (dropTo rest s))).depth = s₀.depth := h.depth
  have small := need.trans_le (paddedLength_bounds legal hb).2
  change _ = paddedLength b.toNat (enterAbsolute b (readHeader 0 b (dropTo rest s))).depth at need
  rw [depth] at need
  have room : (0#9).toNat + rest.length < (enterAbsolute b (readHeader 0 b (dropTo rest s))).scratch.need.toNat := by
    rw [need]
    exact (Nat.zero_add _).trans_lt cut
  have read := engineSteps_literals (literal := rest) (rest := []) rfl room.le small (List.append_nil rest).symm
  obtain ⟨t, literals, result⟩ := readLiterals_literalsRead
    (s := dropTo [] (enterAbsolute b (readHeader 0 b (dropTo rest s)))) room.le small
  obtain ⟨_, status⟩ := result.more room
  have steps := (engineSteps_add_of_next header rest.length).trans (read.trans literals)
  have count : s.source.bytes.length = 2 + rest.length := by
    rw [given]
    exact Nat.add_comm _ 2
  have ends := decodeEnds_truncation h steps {
    frame := by
      have frame := result.frame
      rw [status] at frame ⊢
      rw [count, BitVec.ofNat_add, ← BitVec.add_assoc, frame, readHeader_eq]
      rfl
    ready := by
      rw [State.sReady, status]
      rfl }
  rw [Nat.add_assoc, ← count]
  exact ends

/-- Record by record, the engine does what the loop of DecodeRLE does. -/
theorem loopEnds (s₀ : State) (bytes : List Byte) (fuel : Nat) : LoopEnds s₀ bytes fuel := by
  induction fuel with
  | zero => exact fun _ _ _ _ _ short => absurd short (Nat.not_lt_zero _)
  | succ fuel ends =>
    intro r s rest h given short
    match rest with
    | [] => exact decodeEnds_nil h given
    | [a] => exact decodeEnds_one h given
    | a :: b :: rest =>
      have short' : rest.length < fuel := by simp only [List.length_cons] at short; omega
      by_cases ha : a ≠ 0
      · exact decodeEnds_encodedRun h ends ha given short'
      obtain rfl := not_not.mp ha
      by_cases h0 : b = 0
      · subst h0
        exact decodeEnds_eol h ends given short'
      by_cases h1 : b = 1
      · subst h1
        exact decodeEnds_eob h given
      by_cases h2 : b = 2
      · subst h2
        match rest with
        | dx :: dy :: rest => exact decodeEnds_delta h ends given (by simp only [List.length_cons] at short'; omega)
        | [] | [_] => exact decodeEnds_delta_cut h given (by simp)
      have hb := three_le_of_ne_selector h0 h1 h2
      by_cases cut : rest.length < paddedLength b.toNat s₀.depth
      · rw [decodeRLELoop_absolute_cut _ _ _ _ _ hb cut]
        exact decodeEnds_absolute_cut h hb given cut
      · have split := List.take_append_drop (paddedLength b.toNat s₀.depth) rest
        rw [← split] at given ⊢
        exact decodeEnds_absolute h ends hb (by rw [List.length_take, min_eq_left (Nat.not_lt.mp cut)]) given
          (by rw [List.length_drop]; omega)

end

/-! ### The whole decode -/

/-- The variables with which DecodeRLE begins (R180). -/
def startVars (s : State) : DecodeVars :=
  { plane := List.replicate (imageBytes s.regs) 0, x := 0, y := (s.imageHeight : Int) - 1, n := 0, px := 0 }

theorem varsCounters_startVars {s : State} (legal : LegalConfig s.regs s.capacity) :
    (afterDecode s).counters = varsCounters (startVars s) := by
  have bottom : BitVec.ofInt 32 ((s.imageHeight : Int) - 1) = s.regs.height - 1 := by
    rw [State.imageHeight, ← toInt_height_sub_one legal, BitVec.ofInt_toInt]
  rw [varsCounters, startVars, bottom]
  rfl

/-- The EXEC step of DECODE sets the block as DecodeRLE its variables. -/
theorem atRecord_afterDecode {s : State} {bytes : List Byte} (h : Inv s) (state : s.status.state = .exec)
    (cmd : s.scratch.cmd = 2) (legal : LegalDecodeConfig s.regs s.capacity)
    (source : s.source = { bytes := bytes, rest := .eof }) : AtRecord s bytes (startVars s) (afterDecode s) := by
  have inv := inv_afterDecode h state cmd legal
  exact {
    regs := rfl
    capacity := rfl
    planeLen := (inv.job rfl).planeLen
    length := List.length_replicate
    image := fun k hk => by
      rw [planeRead_afterDecode legal.1, if_pos hk, startVars, List.getD_replicate _ hk]
    above := fun k hk => by rw [planeRead_afterDecode legal.1, if_neg (Nat.not_lt.mpr hk)]
    counters := varsCounters_startVars legal.1
    source := source
    inv := inv
    status := rfl
    x := Nat.zero_le _
    y := by
      show -1 ≤ (s.imageHeight : Int) - 1
      omega
    y' := by
      show (s.imageHeight : Int) - 1 < s.imageHeight
      omega }

/-- Settles O59: the EXEC step, then the loop of DecodeRLE record by record. -/
theorem wholeDecodeIsTheSpecFunction : Obligations.WholeDecodeIsTheSpecFunction := by
  unfold Obligations.WholeDecodeIsTheSpecFunction
  intro s bytes stop r inv state cmd legal source outcome
  have first : engineSteps 1 s = .next (afterDecode s) := by
    rw [engineSteps_one, engineStep_exec state (inv.execCommand state), cmd]
    exact exec_decode_of_legalDecode legal
  have loop := loopEnds s bytes (bytes.length + 1) (startVars s) (afterDecode s) bytes
    (atRecord_afterDecode inv state cmd legal source) (congrArg Source.bytes source) (Nat.lt_succ_self _)
  have run : decodeRLELoop s.imageWidth s.depth (bytes.length + 1) bytes (startVars s) = (stop, r) := outcome
  rw [run] at loop
  obtain ⟨n, t, steps, status, vars⟩ := loop.of_steps first
  exact ⟨n, t, steps, status, vars.image, vars.above, vars.counters, vars.planeLen, vars.regs, vars.capacity,
    vars.sourceBytes⟩

end Sys2Proof.Machine
end
